-- ==== Sys2Proof/Word.lean ====
section
/-! DEFINITION. The words of the block: bytes, 32-bit host words, and offsets inside the host window. -/

namespace Sys2Proof

/-- One RAM byte, and so one character code (00_scope.md R7). -/
abbrev Byte := BitVec 8

/-- The 32-bit word of the host port (20_memory.md R63) and of the command register (30_encoding.md R90). -/
abbrev Word := BitVec 32

/-- A byte offset inside the block's host window of 0x40000 bytes (20_memory.md R60, R62). -/
abbrev Offset := BitVec 18

end Sys2Proof
end

