-- ==== Sys2Proof/Config.lean ====
section
/-! DEFINITION. What an implementation fixes: the constants of the block, its OPEN parameters, and the free
values (opaque, no body), which no proof can evaluate. -/

namespace Sys2Proof

/-- The capacities the spec leaves OPEN (00_scope.md R8). They are parameters: no step changes them, and every
statement about the machine holds for every admissible value of them. -/
structure Params where
  /-- IN_CAP, the capacity in bytes of the input buffer. -/
  inCap  : Nat
  /-- OUT_CAP, the capacity in bytes of the output buffer. -/
  outCap : Nat
  deriving DecidableEq, Repr

namespace Config

/-- The value of the ID register (10_state.md R22). -/
def idValue : Word := 0x42580007

/-- PAD, the pad character (00_scope.md R10). -/
def pad : Byte := 0x3D

/-- INVALID, the reverse-map sentinel (00_scope.md R10, 10_state.md R43). -/
def invalid : Byte := 0xFF

/-- FREE (U1): an index of the input capacity among the multiples of 4 in [4, 65536]. -/
opaque inCapIndex : Nat → Fin 16384

/-- FREE (U1): an index of the output capacity among the multiples of 4 in [4, 65536]. -/
opaque outCapIndex : Nat → Fin 16384

/-- The parameters of the machine that `State.reset` describes: some multiple of 4 in [4, 65536] each (R8). -/
def params : Params :=
  { inCap := 4 * ((inCapIndex 0).val + 1), outCap := 4 * ((outCapIndex 0).val + 1) }

/-- FREE (U2): the number of the 0x40000-byte block of system addresses at which the window stands. -/
opaque blockIndex : Nat → Nat

/-- BLOCK_BASE, aligned to 0x40000 (00_scope.md R9). -/
def blockBase : Nat := 0x40000 * blockIndex 0

/-- FREE (U4 to U7): the value of a RAM byte that nothing has written, by the generation of the RAM's contents and
the byte's address. The same unwritten byte reads the same until its generation ends (20_memory.md R71). -/
opaque freeByte : Nat → Nat → Byte

/-- FREE (U3): the n-th draw a host read returns while the engine is busy (20_memory.md R68). -/
opaque freeWord : Nat → Word

/-- FREE (U10): how many host turns pass between an issue and its completion step; finite, otherwise
unspecified (45_commands.md R201). -/
opaque completionDelay : Nat → Nat

end Config

end Sys2Proof
end

