-- ==== Sys2Proof/Syntax.lean ====
section
/-! DEFINITION. The commands of the block, whole (30_encoding.md R91), and the fields of a command word. -/

namespace Sys2Proof

/-- The four commands, one per row of spec/opcode_table.json. No command has an operand field: its operands are
registers and RAMs (30_encoding.md R90, R94). -/
inductive Instr
  /-- CONFIG: build and freeze the alphabet table and the mode (40_config.md R110). -/
  | config
  /-- ENCODE: bytes in IN to a string in OUT (45_commands.md R203). -/
  | encode
  /-- DECODE: a string in IN to bytes in OUT, an error on an invalid character (45_commands.md R204). -/
  | decode
  /-- DECODE_UNSAFE: as DECODE, but an invalid character is reported as ABSENT (45_commands.md R205). -/
  | decodeUnsafe
  deriving DecidableEq, Repr

/-- The two fields of the 32-bit command word (30_encoding.md R90). -/
structure CommandWord where
  /-- bits 3:0, the command opcode. -/
  op  : BitVec 4
  /-- bits 31:4, reserved; must be zero (30_encoding.md R92). -/
  rsv : BitVec 28
  deriving DecidableEq, Repr

end Sys2Proof
end

