-- ==== Sys2Proof/WellFormed.lean ====
section
/-! DEFINITION. Well-formedness: of the fields of a command word, of an instruction, and of the parameters. -/

namespace Sys2Proof

/-- A command word is well formed when its reserved bits are zero and its opcode is one of 1 to 4
(30_encoding.md R91 to R93). -/
def CommandWord.wf (c : CommandWord) : Bool :=
  c.rsv == 0 && (1 ≤ c.op.toNat && c.op.toNat ≤ 4)

/-- A command has no operand, so every command is well formed (30_encoding.md R94). -/
def Instr.wf : Instr → Bool
  | .config => true
  | .encode => true
  | .decode => true
  | .decodeUnsafe => true

/-- One buffer capacity is a multiple of 4 in [4, 65536] (00_scope.md R8). -/
def capacityWf (n : Nat) : Bool :=
  n % 4 == 0 && (4 ≤ n && n ≤ 65536)

/-- The parameters are admissible (00_scope.md R8). -/
def Params.wf (p : Params) : Bool :=
  capacityWf p.inCap && capacityWf p.outCap

end Sys2Proof
end

