-- ==== Sys2Proof/Decode.lean ====
section
/-! DEFINITION. Decoding a command word, total on any bytes and any word, rejecting by name; then the encoder,
written from the same table (30_encoding.md R90 to R95). -/

namespace Sys2Proof

/-- Why a word (or a string of bytes) is no command. -/
inductive Reject
  /-- Not exactly one 32-bit word (30_encoding.md R95). -/
  | notOneWord (bytes : Nat)
  /-- One of bits 31:4 is set (30_encoding.md R92). -/
  | reservedBits (rsv : BitVec 28)
  /-- The opcode is 0x0 or one of 0x5 to 0xF (30_encoding.md R91, R93). -/
  | reservedOpcode (op : BitVec 4)
  deriving DecidableEq, Repr

/-- Little-endian packing of four bytes, the first in bits 7:0 (20_memory.md R66). -/
def packBytes (b0 b1 b2 b3 : Byte) : Word :=
  b3 ++ b2 ++ b1 ++ b0

/-- Byte j of a word: bits 8j+7 : 8j (20_memory.md R66). -/
def byteOfWord (v : Word) (j : Nat) : Byte :=
  v.extractLsb' (8 * j) 8

/-- The fields of a command word (30_encoding.md R90). -/
def fieldsOfWord (v : Word) : CommandWord :=
  { op := v.extractLsb' 0 4, rsv := v.extractLsb' 4 28 }

/-- The opcode map (30_encoding.md R91); every reserved opcode is rejected by name (R93). -/
def decodeOpcode (op : BitVec 4) : Except Reject Instr :=
  match op.toNat with
  | 1 => .ok .config
  | 2 => .ok .encode
  | 3 => .ok .decode
  | 4 => .ok .decodeUnsafe
  | _ => .error (.reservedOpcode op)

/-- The command a 32-bit word stands for; reserved bits are not ignored (30_encoding.md R92). -/
def decodeWord (v : Word) : Except Reject Instr :=
  let c := fieldsOfWord v
  if c.rsv = 0 then decodeOpcode c.op else .error (.reservedBits c.rsv)

/-- The command a string of bytes stands for: exactly one word, packed as the host port packs it. -/
def decodeBytes : List Byte → Except Reject Instr
  | [b0, b1, b2, b3] => decodeWord (packBytes b0 b1 b2 b3)
  | bs => .error (.notOneWord bs.length)

/-- The opcode of a command (30_encoding.md R91). -/
def opcodeOf : Instr → BitVec 4
  | .config => 1
  | .encode => 2
  | .decode => 3
  | .decodeUnsafe => 4

/-- The command word of a command: its opcode under 28 zero bits (30_encoding.md R90, R91). -/
def encode (i : Instr) : Word :=
  (0#28) ++ opcodeOf i

/-- The four bytes of a command word, the lowest first (20_memory.md R66). -/
def encodeBytes (i : Instr) : List Byte :=
  (List.range 4).map (byteOfWord (encode i))

/-- The bytes of the table's number `w` of `nbits` bits, laid out as one host word; the bits above `nbits` are 0. -/
def tableWord (nbits w : Nat) : Word :=
  BitVec.ofNat 32 (w % 2 ^ nbits)

/-- The command this decoder reads from the table's number `w` of `nbits` bits. -/
def decodeTableWord (nbits w : Nat) : Option Instr :=
  match decodeBytes ((List.range 4).map (byteOfWord (tableWord nbits w))) with
  | .ok i => some i
  | .error _ => none

end Sys2Proof
end

