-- ==== Sys2Proof/Machine/State.lean ====
section
/-! DEFINITION. The state of the block as plain data (10_state.md), the reasons a step can stop, and the state
after reset (70_reset_and_hazards.md R260). -/

namespace Sys2Proof.Machine

/-- CTRL's two fields (10_state.md R23); its other bits read 0 and ignore writes. -/
structure Ctrl where
  rfc4648 : Bool
  ie      : Bool
  deriving DecidableEq, Repr

/-- The error names of STATUS.ERR (60_exceptions.md R230); the codes 11 to 15 are never produced (U15). -/
inductive ErrCode
  | none
  | alphabetTooLong
  | ambiguousAlphabet
  | alphabetTooShort
  | padInAlphabet
  | invalidInput
  | invalidCharacter
  | carryOverflow
  | outputOverflow
  | notConfigured
  | illegalCommand
  deriving DecidableEq, Repr

/-- ERRINFO's fields (10_state.md R30). -/
structure ErrInfo where
  pos  : BitVec 16
  base : Byte
  deriving DecidableEq, Repr

/-- FMODE (10_state.md R27, R40). -/
inductive Mode
  | none
  | generic
  | bitwise
  | quantized
  deriving DecidableEq, Repr

/-- The frozen configuration, which only CONFIG writes (10_state.md R40, R43). -/
structure Frozen where
  /-- FALPHA[0..FN), the alphabet; element d is the character of digit d. -/
  falpha  : List Byte
  /-- FN, the alphabet size N. -/
  fn      : Nat
  /-- FLEADER, the character of digit 0. -/
  fleader : Byte
  /-- REVMAP, 256 entries: the digit of a character, or INVALID. -/
  revmap  : List Byte
  mode    : Mode
  /-- FK, log2 N in a bitwise mode, else 0. -/
  fk      : Nat
  /-- FMASK = 2^FK - 1. -/
  fmask   : Nat
  deriving DecidableEq, Repr

/-- The engine phase (10_state.md R41). -/
inductive Phase
  | idle
  | busy (op : Instr)
  deriving DecidableEq, Repr

/-- The bytes written to a RAM, by address: strictly rising addresses (`Memory.wf`, Ops.lean). An address that is
not listed has no written value. -/
abbrev Memory := List Host.Cell

/-- A byte-addressed RAM (20_memory.md R60): what has been written since its contents last became unspecified,
and the generation that names the free values of its unwritten bytes (log 3). -/
structure Ram where
  cells : Memory
  gen   : Nat
  deriving DecidableEq, Repr

/-- What the outside world does to the block, one at a time (20_memory.md R63 to R65, R72; 70_reset_and_hazards.md
R260). `size` is the width of the access in bytes: the port admits 4 only, and answers every other width with a
host-access error. -/
inductive HostEvent
  | read  (size : Nat) (off : Offset)
  | write (size : Nat) (off : Offset) (v : Word)
  /-- The reset input goes to its asserted level. -/
  | assertReset
  /-- The reset input is released. -/
  | releaseReset
  deriving DecidableEq, Repr

/-- The registers of the window (10_state.md section 2). -/
inductive HostReg
  | id
  | ctrl
  | alen
  | cmd
  | status
  | inLen
  | outLen
  | errinfo
  | leader
  | nbase
  | incap
  | outcap
  deriving DecidableEq, Repr

/-- What stands at a window offset (20_memory.md R62); a RAM target carries the RAM's own byte offset. -/
inductive Target
  | reg (r : HostReg)
  | reserved
  | alpha (b : Nat)
  | inp (b : Nat)
  | out (b : Nat)
  | unmapped
  deriving DecidableEq, Repr

/-- An error a command raises: raise E(pos, base) (00_scope.md R12, 60_exceptions.md R238). -/
structure Raise where
  code : ErrCode
  pos  : Nat
  base : Nat
  deriving DecidableEq, Repr

/-- What a decoding datapath answers (42_bitwise.md R145, 43_quantized.md R165, 44_generic.md R186). -/
inductive Decoded
  /-- The decoded bytes. -/
  | bytes (r : List Byte)
  /-- INVALID(i): the character at index i is not in the alphabet. -/
  | invalid (i : Nat)
  /-- The carry was not exhausted (44_generic.md R183). -/
  | carryOverflow
  deriving DecidableEq, Repr

/-- The reasons a step stops with a fault. -/
inductive Fault
  /-- Raised by ENCODE, DECODE and DECODE_UNSAFE in GENERIC mode when a carry is left over after propagation. The
  spec asks that a model make this a fault and not an outcome (60_exceptions.md R239, U9); no conforming run
  reaches it (44_generic.md R193). Safe. -/
  | carryOverflow
  deriving DecidableEq, Repr

/-- The reasons a step is refused. -/
inductive Refusal
  /-- Raised by exec's arm of an instruction that has no meaning yet. Safe. -/
  | notModelled (mnemonic : String)
  deriving DecidableEq, Repr

/-- The state of the block. Registers that only show other state (STATUS.BUSY, CONFIGURED, MODE, K, LEADER, NBASE)
and the irq output are computed (Flags.lean, HostPort.lean). -/
structure State where
  /-- IN_CAP and OUT_CAP, read through INCAP and OUTCAP; no step writes them. -/
  params  : Params
  ctrl    : Ctrl
  alen    : Word
  inLen   : Word
  outLen  : Word
  /-- STATUS.DONE. -/
  done    : Bool
  /-- STATUS.ABSENT. -/
  absent  : Bool
  /-- STATUS.HERR. -/
  herr    : Bool
  /-- STATUS.ERR. -/
  err     : ErrCode
  errinfo : ErrInfo
  alpha   : Ram
  inp     : Ram
  out     : Ram
  frozen  : Frozen
  phase   : Phase
  /-- The level of the reset input: asserted or not (70_reset_and_hazards.md R260). -/
  resetHeld : Bool
  /-- The model's own: host turns still to pass before the completion step (log 7). -/
  delay   : Nat
  /-- The model's own: how many free values have been taken (log 6). -/
  draws   : Nat
  /-- The model's own: the host's events still to come, oldest first (log 8). -/
  pending : List HostEvent
  /-- The model's own: what the host's reads returned, oldest first (log 8). -/
  replies : List Word
  deriving DecidableEq, Repr

/-- The frozen configuration after reset: FMODE = NONE; everything else is unspecified and unread
(70_reset_and_hazards.md R260), and these values are a DESIGN CHOICE (log 9). -/
def Frozen.reset : Frozen :=
  { falpha := [], fn := 0, fleader := 0, revmap := List.replicate 256 Config.invalid, mode := .none, fk := 0, fmask := 0 }

/-- The state after reset of a block with parameters `p`, the reset input released (70_reset_and_hazards.md R260). -/
def State.resetOf (p : Params) : State :=
  { params := p
    ctrl := { rfc4648 := false, ie := false }
    alen := 0
    inLen := 0
    outLen := 0
    done := false
    absent := false
    herr := false
    err := .none
    errinfo := { pos := 0, base := 0 }
    alpha := { cells := [], gen := 0 }
    inp := { cells := [], gen := 1 }
    out := { cells := [], gen := 2 }
    frozen := Frozen.reset
    phase := .idle
    resetHeld := false
    delay := 0
    draws := 3
    pending := []
    replies := [] }

/-- The machine right after reset. -/
def State.reset : State :=
  State.resetOf Config.params

end Sys2Proof.Machine
end

