-- ==== Sys2Proof/Machine/Ops.lean ====
section
/-! DEFINITION. The named operations over memory and registers, the issue of a command (45_commands.md R200), the
recording of an error (60_exceptions.md R238) and the completion of a command (R201, R206). -/

namespace Sys2Proof.Machine

/-! ### Memory -/

/-- The byte written at an address, if one was. -/
def Memory.read : Memory → Nat → Option Byte
  | [], _ => none
  | (k, b) :: m, a => if k = a then some b else Memory.read m a

/-- Write one byte, keeping the addresses strictly rising. -/
def Memory.write : Memory → Nat → Byte → Memory
  | [], a, v => [(a, v)]
  | (k, b) :: m, a, v =>
    if a < k then (a, v) :: (k, b) :: m
    else if a = k then (a, v) :: m
    else (k, b) :: Memory.write m a v

/-- Write bytes at rising addresses from `a`. -/
def Memory.writeBytes : Memory → Nat → List Byte → Memory
  | m, _, [] => m
  | m, a, v :: vs => Memory.writeBytes (Memory.write m a v) (a + 1) vs

/-- The canonical form: addresses strictly rising. An unlisted address reads as no written value, which no entry
equals, so equal contents are equal lists. -/
abbrev Memory.wf (m : Memory) : Prop :=
  m.Pairwise (fun x y => x.1 < y.1)

/-- Every listed address lies below `cap`. -/
abbrev Memory.below (m : Memory) (cap : Nat) : Prop :=
  ∀ x ∈ m, x.1 < cap

/-- RAM byte `a`: the written byte, else the free value of this generation (20_memory.md R78; U4 to U7). -/
def Ram.read (r : Ram) (a : Nat) : Byte :=
  match r.cells.read a with
  | some b => b
  | none => Config.freeByte r.gen a

/-- RAM[a] <- v. -/
def Ram.write (r : Ram) (a : Nat) (v : Byte) : Ram :=
  { r with cells := r.cells.write a v }

/-- RAM[a..a+len) <- vs. -/
def Ram.writeBytes (r : Ram) (a : Nat) (vs : List Byte) : Ram :=
  { r with cells := r.cells.writeBytes a vs }

/-- The host word at RAM offset `b`: little-endian packing (20_memory.md R66). -/
def Ram.readWord (r : Ram) (b : Nat) : Word :=
  packBytes (r.read b) (r.read (b + 1)) (r.read (b + 2)) (r.read (b + 3))

/-- A host write of a word at RAM offset `b` (20_memory.md R66). -/
def Ram.writeWord (r : Ram) (b : Nat) (v : Word) : Ram :=
  r.writeBytes b ((List.range 4).map (byteOfWord v))

/-- A RAM whose every byte is unspecified, under generation `g` (70_reset_and_hazards.md R261). -/
def Ram.unspecified (g : Nat) : Ram :=
  { cells := [], gen := g }

/-! ### Issue -/

/-- The clearing at issue, done by every accepted CMD write, legal or illegal (45_commands.md R200; 10_state.md
R38). -/
def clearAtIssue (s : State) : State :=
  { s with done := false, err := .none, absent := false, errinfo := { pos := 0, base := 0 } }

/-- The frozen configuration as an issue leaves it: CONFIG's issue sets FMODE <- NONE (45_commands.md R200), the
other commands keep it. -/
def frozenAtIssue (op : Instr) (f : Frozen) : Frozen :=
  match op with
  | .config => { f with mode := .none }
  | .encode => f
  | .decode => f
  | .decodeUnsafe => f

/-- A legal command starts: phase <- BUSY(op), with `wait` host turns to pass before its completion step
(45_commands.md R200, R201). -/
def startCommand (op : Instr) (wait : Nat) (s : State) : State :=
  { clearAtIssue s with phase := .busy op, delay := wait, frozen := frozenAtIssue op s.frozen }

/-- An illegal command is recorded in the same access, without a BUSY phase (45_commands.md R209; 30_encoding.md
R93). -/
def recordIllegal (s : State) : State :=
  { clearAtIssue s with err := .illegalCommand, done := true }

/-- An accepted CMD write of `v` (45_commands.md R200). The time to completion is a free value (U10). -/
def issue (v : Word) (s : State) : State :=
  match decodeWord v with
  | .error _ => recordIllegal s
  | .ok op => { startCommand op (Config.completionDelay s.draws) s with draws := s.draws + 1 }

/-- The state in which the command word `v` has just been issued to an idle engine, the reset input released, and the
engine moves next. -/
def loadCommand (v : Word) (s : State) : State :=
  match decodeWord v with
  | .error _ => recordIllegal { s with phase := .idle, resetHeld := false }
  | .ok op => startCommand op 0 { s with resetHeld := false }

/-- The command the engine completes in this step, if it moves (45_commands.md R201); it does not move while reset is
asserted (70_reset_and_hazards.md R260, R262). -/
def engineReady (s : State) : Option Instr :=
  match s.phase with
  | .idle => none
  | .busy op => if s.delay = 0 ∧ s.resetHeld = false then some op else none

/-! ### Completion -/

/-- STATUS.DONE <- 1, phase <- IDLE (45_commands.md R201). -/
def finish (s : State) : State :=
  { s with done := true, phase := .idle }

/-- OUT_LEN <- 0 and every OUT byte becomes unspecified (60_exceptions.md R238, 45_commands.md R205). -/
def dropOutput (s : State) : State :=
  { s with outLen := 0, out := Ram.unspecified s.draws, draws := s.draws + 1 }

/-- STATUS.ERR <- E, ERRINFO <- (pos, base), STATUS.ABSENT <- 0 (60_exceptions.md R238). -/
def recordError (e : Raise) (s : State) : State :=
  { s with err := e.code, absent := false, errinfo := { pos := BitVec.ofNat 16 e.pos, base := BitVec.ofNat 8 e.base } }

/-- What a failing command of each kind does to its results: CONFIG leaves FMODE = NONE, a data command leaves OUT
unspecified with OUT_LEN = 0 (60_exceptions.md R238). -/
def discardResults (op : Instr) (s : State) : State :=
  match op with
  | .config => { s with frozen := { s.frozen with mode := .none } }
  | .encode => dropOutput s
  | .decode => dropOutput s
  | .decodeUnsafe => dropOutput s

/-- raise E(pos, base) inside command `op`: the one way an error is taken (60_exceptions.md R238, R246). -/
def raiseError (op : Instr) (e : Raise) (s : State) : State :=
  finish (discardResults op (recordError e s))

/-- A successful data command: OUT[0..len(r)) <- r, the other OUT bytes unspecified, OUT_LEN <- len(r), ERR <- NONE
(45_commands.md R206). -/
def deliver (r : List Byte) (s : State) : State :=
  finish
    { s with
      out := (Ram.unspecified s.draws).writeBytes 0 r
      outLen := BitVec.ofNat 32 r.length
      err := .none
      absent := false
      draws := s.draws + 1 }

/-- Output(r) of command `op` (45_commands.md R206): OUTPUT_OVERFLOW when the result does not fit in OUT. -/
def output (op : Instr) (r : List Byte) (s : State) : State :=
  if r.length > s.params.outCap then raiseError op { code := .outputOverflow, pos := 0, base := 0 } s
  else deliver r s

/-- DECODE_UNSAFE met an invalid character at `i`: ABSENT, not an error (45_commands.md R205; 60_exceptions.md
R243). -/
def reportAbsent (i : Nat) (s : State) : State :=
  finish
    { dropOutput s with
      absent := true
      err := .none
      errinfo := { pos := BitVec.ofNat 16 i, base := BitVec.ofNat 8 s.frozen.fn } }

/-! ### Reset -/

/-- The block's state takes the values of reset, the reset input now at level `held` (70_reset_and_hazards.md R260 to
R262): all three RAMs are unspecified anew. The parameters, and the host's own events and replies, are not the block's
to clear. -/
def hardReset (held : Bool) (s : State) : State :=
  { State.resetOf s.params with
    resetHeld := held
    alpha := Ram.unspecified s.draws
    inp := Ram.unspecified (s.draws + 1)
    out := Ram.unspecified (s.draws + 2)
    draws := s.draws + 3
    pending := s.pending
    replies := s.replies }

end Sys2Proof.Machine
end

