-- ==== Sys2Proof/Machine/Operands.lean ====
section
/-! DEFINITION. Where each command's operands come from (30_encoding.md R94) and the frozen lookups the datapaths
share. -/

namespace Sys2Proof.Machine

/-- RAM[0..n) as a byte sequence. -/
def Ram.take (r : Ram) (n : Nat) : List Byte :=
  (List.range n).map r.read

/-- CONFIG's ALPHA[0..ALEN) (30_encoding.md R94). -/
def alphabetOperand (s : State) : List Byte :=
  s.alpha.take s.alen.toNat

/-- The data commands' IN[0..IN_LEN) (30_encoding.md R94). -/
def inputOperand (s : State) : List Byte :=
  s.inp.take s.inLen.toNat

/-- REVMAP[c] (10_state.md R43). -/
def revLookup (revmap : List Byte) (c : Byte) : Byte :=
  revmap.getD c.toNat Config.invalid

/-- The digit of a character, none where REVMAP holds INVALID (10_state.md R43). -/
def Frozen.digit (f : Frozen) (c : Byte) : Option Nat :=
  let d := revLookup f.revmap c
  if d = Config.invalid then none else some d.toNat

/-- REVMAP[c] as a number, for characters already found valid. -/
def Frozen.digitValue (f : Frozen) (c : Byte) : Nat :=
  (revLookup f.revmap c).toNat

/-- FALPHA[d], the alphabet indexer (42_bitwise.md R142). Every digit the datapaths emit is below FN (log 20). -/
def Frozen.char (f : Frozen) (d : Nat) : Byte :=
  f.falpha.getD d 0

/-- The least index at or after `i`, counted along `s`, whose character is not in the alphabet (D30). -/
def firstInvalid (f : Frozen) : Nat → List Byte → Option Nat
  | _, [] => none
  | i, c :: s =>
    match f.digit c with
    | none => some i
    | some _ => firstInvalid f (i + 1) s

end Sys2Proof.Machine
end

