-- ==== Sys2Proof/Machine/Construct.lean ====
section
/-! DEFINITION. The CONFIG command: alphabet checks, reverse map, mode selection, commit (40_config.md). -/

namespace Sys2Proof.Machine

/-- The map loop of R113 from index `i` on: the filled map, or the index of the first repeated character. -/
def buildReverse : Nat → List Byte → List Byte → Except Nat (List Byte)
  | _, [], rev => .ok rev
  | i, c :: cs, rev =>
    if revLookup rev c ≠ Config.invalid then .error i
    else buildReverse (i + 1) cs (rev.set c.toNat (BitVec.ofNat 8 i))

/-- The empty map: every entry INVALID (40_config.md R113). -/
def emptyReverse : List Byte :=
  List.replicate 256 Config.invalid

/-- The power-of-two test (40_config.md R115). -/
def isPowerOfTwo (n : Nat) : Bool :=
  n &&& (n - 1) == 0

/-- The mode of an alphabet of size n (40_config.md R115, R117). -/
def selectMode (n : Nat) (rfc : Bool) : Mode :=
  if isPowerOfTwo n then (if rfc then .quantized else .bitwise) else .generic

/-- FK (40_config.md R116). -/
def selectK (n : Nat) : Nat :=
  if isPowerOfTwo n then Nat.log2 n else 0

/-- CONFIG's rule (40_config.md R110), given a way to read ALPHA[0..n), which is not used where the length is
refused (R111, R112). -/
def construct (n : Nat) (readAlphabet : Nat → List Byte) (rfc : Bool) : Except Raise Frozen :=
  if 255 ≤ n then .error { code := .alphabetTooLong, pos := 0, base := 0 }
  else if n < 2 then .error { code := .alphabetTooShort, pos := 0, base := 0 }
  else
    let alphabet := readAlphabet n
    match buildReverse 0 alphabet emptyReverse with
    | .error i => .error { code := .ambiguousAlphabet, pos := i, base := 0 }
    | .ok rev =>
      if selectMode n rfc = .quantized ∧ revLookup rev Config.pad ≠ Config.invalid then
        .error { code := .padInAlphabet, pos := (revLookup rev Config.pad).toNat, base := 0 }
      else
        .ok
          { falpha := alphabet
            fn := n
            fleader := alphabet.headD 0
            revmap := rev
            mode := selectMode n rfc
            fk := selectK n
            fmask := 2 ^ selectK n - 1 }

/-- The commit of a successful CONFIG (40_config.md R120): ERR and ABSENT as cleared, DONE set, BUSY cleared. -/
def commitConfig (f : Frozen) (s : State) : State :=
  finish { s with frozen := f, err := .none, absent := false }

/-- CONFIG's completion step (40_config.md R110, R120, R121). -/
def execConfig (s : State) : Host.Outcome State Fault Refusal :=
  match construct s.alen.toNat s.alpha.take s.ctrl.rfc4648 with
  | .ok f => .next (commitConfig f s)
  | .error e => .next (raiseError .config e s)

end Sys2Proof.Machine
end

