-- ==== Sys2Proof/Machine/ZeroRun.lean ====
section
/-! DEFINITION. Leading-zero run handling (41_zero_run.md), shared by the bitwise and the generic datapath. -/

namespace Sys2Proof.Machine

/-- The length of the longest run of `x` at the front of a sequence. -/
def leadingRun (x : Byte) : List Byte → Nat
  | [] => 0
  | b :: bs => if b = x then leadingRun x bs + 1 else 0

/-- ZeroCount(b) (41_zero_run.md R130). -/
def zeroCount (b : List Byte) : Nat :=
  leadingRun 0 b

/-- LeaderCount(s) (41_zero_run.md R131). -/
def leaderCount (f : Frozen) (s : List Byte) : Nat :=
  leadingRun f.fleader s

end Sys2Proof.Machine
end

