-- ==== Sys2Proof/Machine/Generic.lean ====
section
/-! DEFINITION. The big-number radix converter (44_generic.md R180, R186). The scratch array of S digits is held
least significant first: its element j is the rule's dig[S - 1 - j]. -/

namespace Sys2Proof.Machine

/-- The least d with base^d at least `target`, searched upward from d with p = base^d; `fuel` bounds the search. -/
def leastPower (base target : Nat) : Nat → Nat → Nat → Nat
  | 0, d, _ => d
  | fuel + 1, d, p => if target ≤ p then d else leastPower base target fuel (d + 1) (p * base)

/-- EncDigits(R, N) (40_config.md R119): as N is at least 2, d = 8R is always enough. -/
def encDigits (r n : Nat) : Nat :=
  leastPower n (256 ^ r) (8 * r) 0 1

/-- DecBytes(R, N) (40_config.md R119): as N is at most 256, d = R is always enough. -/
def decBytes (r n : Nat) : Nat :=
  leastPower 256 (n ^ r) r 0 1

/-- What one propagation leaves (44_generic.md R182, R188). -/
structure Propagated where
  digits : List Nat
  carry  : Nat
  used   : Nat
  deriving DecidableEq, Repr

/-- The carry loop of R180 and R186, from the least significant digit up: carry + mul * digit, its remainder by
`radix` the new digit, its quotient the new carry; until the carry is 0 and the used length is covered, or the
array ends. -/
def propagate (mul radix length : Nat) : Nat → Nat → List Nat → Propagated
  | carry, j, [] => { digits := [], carry := carry, used := j }
  | carry, j, d :: ds =>
    if carry ≠ 0 ∨ j < length then
      let c := carry + mul * d
      let r := propagate mul radix length (c / radix) (j + 1) ds
      { r with digits := c % radix :: r.digits }
    else { digits := d :: ds, carry := carry, used := j }

/-- The used digits, most significant first, without leading zeros (44_generic.md R184, R190). -/
def significant (digits : List Nat) (length : Nat) : List Nat :=
  (digits.take length).reverse.dropWhile (fun d => d == 0)

/-- The byte loop of R180; none when a carry is left over (R183). -/
def genericFold (mul radix : Nat) : List Nat → List Nat → Nat → Option (List Nat)
  | [], digits, length => some (significant digits length)
  | x :: xs, digits, length =>
    let p := propagate mul radix length x 0 digits
    if p.carry ≠ 0 then none else genericFold mul radix xs p.digits p.used

/-- GenericEncode(b) (44_generic.md R180); none is CARRY_OVERFLOW. -/
def genericEncode (f : Frozen) (b : List Byte) : Option (List Byte) :=
  let z := zeroCount b
  let rest := b.drop z
  let scratch := List.replicate (encDigits rest.length f.fn + 1) 0
  match genericFold 256 f.fn (rest.map BitVec.toNat) scratch 0 with
  | some ds => some (List.replicate z f.fleader ++ ds.map f.char)
  | none => none

/-- The character loop of R186 from index `i` on: an invalid character ends it at once (R189). -/
def genericDecodeLoop (f : Frozen) (z : Nat) : Nat → List Byte → List Nat → Nat → Decoded
  | _, [], digits, length =>
    .bytes (List.replicate z 0 ++ (significant digits length).map (BitVec.ofNat 8))
  | i, c :: s, digits, length =>
    match f.digit c with
    | none => .invalid i
    | some d =>
      let p := propagate f.fn 256 length d 0 digits
      if p.carry ≠ 0 then .carryOverflow else genericDecodeLoop f z (i + 1) s p.digits p.used

/-- GenericDecode(s) (44_generic.md R186). -/
def genericDecode (f : Frozen) (s : List Byte) : Decoded :=
  let z := leaderCount f s
  let rest := s.drop z
  genericDecodeLoop f z z rest (List.replicate (decBytes rest.length f.fn + 1) 0) 0

end Sys2Proof.Machine
end

