-- ==== Sys2Proof/Machine/Bitwise.lean ====
section
/-! DEFINITION. The bitwise datapath, standard sub-mode (42_bitwise.md R140, R145). Accumulators are non-negative
integers, shifted and masked as the rules shift and mask them (00_scope.md R11, R13). -/

namespace Sys2Proof.Machine

/-- What the bitwise encoder carries from byte to byte (42_bitwise.md R140): the accumulator, how many bits it
holds, the width of the next group, and whether a non-zero digit has been emitted. -/
structure BitEncoder where
  acc     : Nat
  nb      : Nat
  need    : Nat
  started : Bool
  deriving DecidableEq, Repr

/-- The inner loop of R140: emit digits while a whole group is held. `fuel` bounds the number of groups; every
group takes at least one bit, so the bit count is fuel enough. -/
def bitwiseDrain (k : Nat) : Nat → BitEncoder → List Nat × BitEncoder
  | 0, e => ([], e)
  | fuel + 1, e =>
    if e.need ≤ e.nb then
      let d := (e.acc >>> (e.nb - e.need)) &&& (2 ^ e.need - 1)
      let nb := e.nb - e.need
      let keep := d != 0 || e.started
      let r := bitwiseDrain k fuel { acc := e.acc &&& (2 ^ nb - 1), nb := nb, need := k, started := keep }
      (if keep then d :: r.1 else r.1, r.2)
    else ([], e)

/-- The outer loop of R140: the digits emitted for a byte sequence. -/
def bitwiseDigits (k : Nat) : List Byte → BitEncoder → List Nat
  | [], _ => []
  | b :: bs, e =>
    let r := bitwiseDrain k (e.nb + 8) { e with acc := (e.acc <<< 8) ||| b.toNat, nb := e.nb + 8 }
    r.1 ++ bitwiseDigits k bs r.2

/-- The width of the first group (42_bitwise.md R141). -/
def firstGroup (k totalBits : Nat) : Nat :=
  if totalBits % k = 0 then k else totalBits % k

/-- BitwiseEncode(b) (42_bitwise.md R140). -/
def bitwiseEncode (f : Frozen) (b : List Byte) : List Byte :=
  let z := zeroCount b
  let rest := b.drop z
  let first : BitEncoder := { acc := 0, nb := 0, need := firstGroup f.fk (8 * rest.length), started := false }
  List.replicate z f.fleader ++ (bitwiseDigits f.fk rest first).map f.char

/-- Fold k-bit digits into bytes, a byte each time 8 bits are held (42_bitwise.md R147, 43_quantized.md R168).
Bits left over at the end are discarded. -/
def accumulate (k : Nat) : List Nat → Nat → Nat → List Byte
  | [], _, _ => []
  | d :: ds, acc, nb =>
    let acc' := (acc <<< k) ||| d
    let nb' := nb + k
    if 8 ≤ nb' then
      BitVec.ofNat 8 ((acc' >>> (nb' - 8)) &&& 0xFF) :: accumulate k ds (acc' &&& (2 ^ (nb' - 8) - 1)) (nb' - 8)
    else accumulate k ds acc' nb'

/-- BitwiseDecode(s) (42_bitwise.md R145): the digits right-aligned in the byte buffer (R147), every leading zero
byte of the buffer removed (R148). -/
def bitwiseDecode (f : Frozen) (s : List Byte) : Decoded :=
  let z := leaderCount f s
  let rest := s.drop z
  match firstInvalid f z rest with
  | some i => .invalid i
  | none =>
    let m := rest.length * f.fk
    let nbytes := (m + 7) / 8
    let buf := accumulate f.fk (rest.map f.digitValue) 0 (8 * nbytes - m)
    .bytes (List.replicate z 0 ++ buf.drop (zeroCount buf))

end Sys2Proof.Machine
end

