-- ==== Sys2Proof/Machine/Quantized.lean ====
section
/-! DEFINITION. The bitwise datapath, quantized (padded) sub-mode (43_quantized.md R160, R165). It uses neither
zero-run rule (41_zero_run.md R134). -/

namespace Sys2Proof.Machine

/-- The inner loop of R160: the digits of the whole groups held, and what is left in the accumulator. The bit count
is fuel enough, as every group takes at least one bit. -/
def quantDrain (f : Frozen) : Nat → Nat → Nat → List Nat × Nat × Nat
  | 0, acc, nb => ([], acc, nb)
  | fuel + 1, acc, nb =>
    if f.fk ≤ nb then
      let d := (acc >>> (nb - f.fk)) &&& f.fmask
      let r := quantDrain f fuel (acc &&& (2 ^ (nb - f.fk) - 1)) (nb - f.fk)
      (d :: r.1, r.2)
    else ([], acc, nb)

/-- The data digits of R160 to R162: whole groups as they fill, then the left-over bits shifted up to fill one more
group. -/
def quantDigits (f : Frozen) : List Byte → Nat → Nat → List Nat
  | [], acc, nb => if 0 < nb then [(acc <<< (f.fk - nb)) &&& f.fmask] else []
  | b :: bs, acc, nb =>
    let r := quantDrain f (nb + 8) ((acc <<< 8) ||| b.toNat) (nb + 8)
    r.1 ++ quantDigits f bs r.2.1 r.2.2

/-- The pads of R163 after `len` characters: one more until len * k is a multiple of 8. At most 7 are needed, as
8 * k is a multiple of 8. -/
def quantPads (k : Nat) : Nat → Nat → List Byte
  | 0, _ => []
  | fuel + 1, len => if len * k % 8 ≠ 0 then Config.pad :: quantPads k fuel (len + 1) else []

/-- QuantEncode(b) (43_quantized.md R160). -/
def quantEncode (f : Frozen) (b : List Byte) : List Byte :=
  let data := (quantDigits f b 0 0).map f.char
  data ++ quantPads f.fk 8 data.length

/-- s without its trailing pads (43_quantized.md R166). -/
def stripPads (s : List Byte) : List Byte :=
  (s.reverse.dropWhile (fun c => c == Config.pad)).reverse

/-- QuantDecode(s) (43_quantized.md R165); no check on the pads, the length or the left-over bits (R169). -/
def quantDecode (f : Frozen) (s : List Byte) : Decoded :=
  let data := stripPads s
  match firstInvalid f 0 data with
  | some i => .invalid i
  | none => .bytes (accumulate f.fk (data.map f.digitValue) 0 0)

end Sys2Proof.Machine
end

