-- ==== Sys2Proof/Machine/DataCommands.lean ====
section
/-! DEFINITION. ENCODE, DECODE and DECODE_UNSAFE (45_commands.md R202 to R208), each evaluated at its completion
step. The match on FMODE is the dispatch table R202. -/

namespace Sys2Proof.Machine

/-- NOT_CONFIGURED, before any other check (45_commands.md R208). -/
def raiseNotConfigured (op : Instr) (s : State) : State :=
  raiseError op { code := .notConfigured, pos := 0, base := 0 } s

/-- INVALID_INPUT, before any IN byte is read (45_commands.md R207). -/
def raiseInvalidInput (op : Instr) (s : State) : State :=
  raiseError op { code := .invalidInput, pos := 0, base := 0 } s

/-- IN_LEN > IN_CAP (45_commands.md R207). -/
def inputTooLong (s : State) : Bool :=
  s.params.inCap < s.inLen.toNat

/-- A configured encoding command: IN[0..IN_LEN) through the datapath `enc` to Output (45_commands.md R203). -/
def runEncode (op : Instr) (enc : List Byte → Option (List Byte)) (s : State) : Host.Outcome State Fault Refusal :=
  if inputTooLong s then .next (raiseInvalidInput op s)
  else
    match enc (inputOperand s) with
    | some r => .next (output op r s)
    | none => .fault .carryOverflow

/-- A configured decoding command: IN[0..IN_LEN) through the datapath `dec`; `onInvalid` says how an invalid
character is reported (45_commands.md R204, R205). -/
def runDecode (op : Instr) (onInvalid : Nat → State → State) (dec : List Byte → Decoded) (s : State) :
    Host.Outcome State Fault Refusal :=
  if inputTooLong s then .next (raiseInvalidInput op s)
  else
    match dec (inputOperand s) with
    | .bytes r => .next (output op r s)
    | .invalid i => .next (onInvalid i s)
    | .carryOverflow => .fault .carryOverflow

/-- DECODE's INVALID_CHARACTER(i, FN) (45_commands.md R204; 60_exceptions.md R237). -/
def raiseInvalidCharacter (i : Nat) (s : State) : State :=
  raiseError .decode { code := .invalidCharacter, pos := i, base := s.frozen.fn } s

/-- ENCODE (45_commands.md R203). -/
def execEncode (s : State) : Host.Outcome State Fault Refusal :=
  match s.frozen.mode with
  | .none => .next (raiseNotConfigured .encode s)
  | .generic => runEncode .encode (genericEncode s.frozen) s
  | .bitwise => runEncode .encode (fun b => some (bitwiseEncode s.frozen b)) s
  | .quantized => runEncode .encode (fun b => some (quantEncode s.frozen b)) s

/-- DECODE (45_commands.md R204). -/
def execDecode (s : State) : Host.Outcome State Fault Refusal :=
  match s.frozen.mode with
  | .none => .next (raiseNotConfigured .decode s)
  | .generic => runDecode .decode raiseInvalidCharacter (genericDecode s.frozen) s
  | .bitwise => runDecode .decode raiseInvalidCharacter (bitwiseDecode s.frozen) s
  | .quantized => runDecode .decode raiseInvalidCharacter (quantDecode s.frozen) s

/-- DECODE_UNSAFE (45_commands.md R205). -/
def execDecodeUnsafe (s : State) : Host.Outcome State Fault Refusal :=
  match s.frozen.mode with
  | .none => .next (raiseNotConfigured .decodeUnsafe s)
  | .generic => runDecode .decodeUnsafe reportAbsent (genericDecode s.frozen) s
  | .bitwise => runDecode .decodeUnsafe reportAbsent (bitwiseDecode s.frozen) s
  | .quantized => runDecode .decodeUnsafe reportAbsent (quantDecode s.frozen) s

end Sys2Proof.Machine
end

