-- ==== Sys2Proof/Machine/Flags.lean ====
section
/-! DEFINITION. STATUS, ERRINFO and CTRL as host words, the write to STATUS, and the irq output (10_state.md R23,
R26, R30, R38, R39). -/

namespace Sys2Proof.Machine

/-- STATUS.BUSY (10_state.md R41). -/
def busy (s : State) : Bool :=
  match s.phase with
  | .idle => false
  | .busy _ => true

/-- STATUS.CONFIGURED (10_state.md R40). -/
def configured (s : State) : Bool :=
  s.frozen.mode != .none

/-- The codes of STATUS.ERR (60_exceptions.md R230). -/
def errCode : ErrCode → BitVec 4
  | .none => 0
  | .alphabetTooLong => 1
  | .ambiguousAlphabet => 2
  | .alphabetTooShort => 3
  | .padInAlphabet => 4
  | .invalidInput => 5
  | .invalidCharacter => 6
  | .carryOverflow => 7
  | .outputOverflow => 8
  | .notConfigured => 9
  | .illegalCommand => 10

/-- The codes of STATUS.MODE (10_state.md R27). -/
def modeCode : Mode → BitVec 2
  | .none => 0
  | .generic => 1
  | .bitwise => 2
  | .quantized => 3

/-- STATUS.K: FK while configured, else 0 (10_state.md R40, R44). -/
def kField (s : State) : BitVec 3 :=
  if configured s then BitVec.ofNat 3 s.frozen.fk else 0

/-- STATUS as a host word (10_state.md R26): from the top, reserved 31:23, K, reserved 19:18, MODE, reserved 15:12,
ERR, reserved 7:5, HERR, ABSENT, CONFIGURED, DONE, BUSY. -/
def statusWord (s : State) : Word :=
  (0#9) ++ kField s ++ (0#2) ++ modeCode s.frozen.mode ++ (0#4) ++ errCode s.err ++ (0#3) ++ BitVec.ofBool s.herr ++
    BitVec.ofBool s.absent ++ BitVec.ofBool (configured s) ++ BitVec.ofBool s.done ++ BitVec.ofBool (busy s)

/-- A host write to STATUS: DONE and HERR are cleared where the written bit is 1; nothing else happens
(10_state.md R26). -/
def writeStatus (v : Word) (s : State) : State :=
  { s with done := s.done && !v.getLsbD 1, herr := s.herr && !v.getLsbD 4 }

/-- ERRINFO as a host word (10_state.md R30). -/
def errinfoWord (e : ErrInfo) : Word :=
  (0#8) ++ e.base ++ e.pos

/-- CTRL as a host word: bits 31:2 read 0 (10_state.md R23). -/
def ctrlWord (c : Ctrl) : Word :=
  (0#30) ++ BitVec.ofBool c.ie ++ BitVec.ofBool c.rfc4648

/-- CTRL as a write of `v` leaves it (10_state.md R23). -/
def ctrlOfWord (v : Word) : Ctrl :=
  { rfc4648 := v.getLsbD 0, ie := v.getLsbD 1 }

/-- LEADER as a host word: 0 while unconfigured (10_state.md R31). -/
def leaderWord (s : State) : Word :=
  if configured s then s.frozen.fleader.setWidth 32 else 0

/-- NBASE as a host word: 0 while unconfigured (10_state.md R32). -/
def nbaseWord (s : State) : Word :=
  if configured s then (BitVec.ofNat 8 s.frozen.fn).setWidth 32 else 0

/-- The irq output: a level, CTRL.IE and STATUS.DONE (10_state.md R39; 60_exceptions.md R247). -/
def irq (s : State) : Bool :=
  s.ctrl.ie && s.done

/-- HERR <- 1, the whole effect of a host-access error on the state (20_memory.md R67). -/
def setHerr (s : State) : State :=
  { s with herr := true }

end Sys2Proof.Machine
end

