-- ==== Sys2Proof/Machine/HostPort.lean ====
section
/-! DEFINITION. The host port: the window map, host reads, host writes and the reset input (20_memory.md; 10_state.md
section 2; 70_reset_and_hazards.md R260). -/

namespace Sys2Proof.Machine

/-- The window offset of a system address, none outside the window (00_scope.md R9; 20_memory.md R60). -/
def windowOffset (addr : Nat) : Option Offset :=
  if Config.blockBase ≤ addr ∧ addr < Config.blockBase + 0x40000 then some (BitVec.ofNat 18 (addr - Config.blockBase))
  else none

/-- The system address of a window offset. -/
def systemAddress (off : Offset) : Nat :=
  Config.blockBase + off.toNat

/-- The register at a byte offset (10_state.md section 2). -/
def regAt : Nat → Option HostReg
  | 0x00 => some .id
  | 0x04 => some .ctrl
  | 0x08 => some .alen
  | 0x0C => some .cmd
  | 0x10 => some .status
  | 0x14 => some .inLen
  | 0x18 => some .outLen
  | 0x1C => some .errinfo
  | 0x20 => some .leader
  | 0x24 => some .nbase
  | 0x28 => some .incap
  | 0x2C => some .outcap
  | _ => none

/-- The window map for a word-aligned offset (20_memory.md R62). -/
def targetAt (p : Params) (off : Offset) : Target :=
  let a := off.toNat
  match regAt a with
  | some r => .reg r
  | none =>
    if a < 0x100 then .reserved
    else if a < 0x200 then .alpha (a - 0x100)
    else if 0x10000 ≤ a ∧ a < 0x10000 + p.inCap then .inp (a - 0x10000)
    else if 0x20000 ≤ a ∧ a < 0x20000 + p.outCap then .out (a - 0x20000)
    else .unmapped

/-- What an access of `size` bytes at `off` reaches: an access that is not 32 bits wide or not aligned acts as an
access to an unmapped offset (20_memory.md R63). -/
def target (p : Params) (size : Nat) (off : Offset) : Target :=
  if size = 4 ∧ off.toNat % 4 = 0 then targetAt p off else .unmapped

/-- The stored value of a register (10_state.md section 2); CMD reads 0 (R25). -/
def regValue (s : State) : HostReg → Word
  | .id => Config.idValue
  | .ctrl => ctrlWord s.ctrl
  | .alen => s.alen
  | .cmd => 0
  | .status => statusWord s
  | .inLen => s.inLen
  | .outLen => s.outLen
  | .errinfo => errinfoWord s.errinfo
  | .leader => leaderWord s
  | .nbase => nbaseWord s
  | .incap => BitVec.ofNat 32 s.params.inCap
  | .outcap => BitVec.ofNat 32 s.params.outCap

/-- The stored value a read returns (20_memory.md R64); reserved and unmapped offsets read 0. -/
def targetValue (s : State) : Target → Word
  | .reg r => regValue s r
  | .reserved => 0
  | .alpha b => s.alpha.readWord b
  | .inp b => s.inp.readWord b
  | .out b => s.out.readWord b
  | .unmapped => 0

/-- Registers whose reads are draws while command `op` runs (20_memory.md R68). -/
def regIsDraw (op : Instr) : HostReg → Bool
  | .outLen => true
  | .errinfo => true
  | .leader => op == .config
  | .nbase => op == .config
  | .id => false
  | .ctrl => false
  | .alen => false
  | .cmd => false
  | .status => false
  | .inLen => false
  | .incap => false
  | .outcap => false

/-- Whether a read of this target is a draw now (20_memory.md R68). -/
def readIsDraw (s : State) (t : Target) : Bool :=
  match s.phase with
  | .idle => false
  | .busy op =>
    match t with
    | .reg r => regIsDraw op r
    | .out _ => true
    | .reserved => false
    | .alpha _ => false
    | .inp _ => false
    | .unmapped => false

/-- A read returns `v` to the host. -/
def reply (v : Word) (s : State) : State :=
  { s with replies := s.replies ++ [v] }

/-- A host read of a target (20_memory.md R64, R67, R68). -/
def readTarget (t : Target) (s : State) : State :=
  if readIsDraw s t then reply (Config.freeWord s.draws) { s with draws := s.draws + 1 }
  else if t = .unmapped then reply 0 (setHerr s)
  else reply (targetValue s t) s

/-- MemRead(HOST, off, size), the reset input released. -/
def hostRead (size : Nat) (off : Offset) (s : State) : State :=
  readTarget (target s.params size off) s

/-- A write the engine's being busy drops, with HERR; otherwise it is done (20_memory.md R68). -/
def unlessBusy (write : State → State) (s : State) : State :=
  if busy s then setHerr s else write s

/-- A host write to a register (20_memory.md R65): read-only registers ignore it, CMD may issue a command. -/
def writeReg (r : HostReg) (v : Word) (s : State) : State :=
  match r with
  | .ctrl => unlessBusy (fun s => { s with ctrl := ctrlOfWord v }) s
  | .alen => unlessBusy (fun s => { s with alen := v }) s
  | .cmd => unlessBusy (issue v) s
  | .status => writeStatus v s
  | .inLen => unlessBusy (fun s => { s with inLen := v }) s
  | .id => s
  | .outLen => s
  | .errinfo => s
  | .leader => s
  | .nbase => s
  | .incap => s
  | .outcap => s

/-- A host write to a target (20_memory.md R65, R67, R68): a write to OUT or to an unmapped offset is a host-access
error, a write to a reserved offset is ignored. -/
def writeTarget (t : Target) (v : Word) (s : State) : State :=
  match t with
  | .reg r => writeReg r v s
  | .reserved => s
  | .alpha b => unlessBusy (fun s => { s with alpha := s.alpha.writeWord b v }) s
  | .inp b => unlessBusy (fun s => { s with inp := s.inp.writeWord b v }) s
  | .out _ => setHerr s
  | .unmapped => setHerr s

/-- MemWrite(HOST, off, size, v), the reset input released. -/
def hostWrite (size : Nat) (off : Offset) (v : Word) (s : State) : State :=
  writeTarget (target s.params size off) v s

/-- A host read while reset is asserted: the stored value, which is that of reset, with no HERR, as R260 holds HERR
at 0 (DEDUCED, log 14). -/
def heldRead (size : Nat) (off : Offset) (s : State) : State :=
  reply (targetValue s (target s.params size off)) s

/-- One event at the block's inputs. While reset is asserted the state keeps its reset values, so a write, a command
word or a bad access has no effect; it takes them when reset is asserted and again when it is released
(70_reset_and_hazards.md R260). -/
def hostEvent (e : HostEvent) (s : State) : State :=
  match e with
  | .read size off => if s.resetHeld then heldRead size off s else hostRead size off s
  | .write size off v => if s.resetHeld then s else hostWrite size off v s
  | .assertReset => hardReset true s
  | .releaseReset => if s.resetHeld then hardReset false s else s

/-- One turn of the host: its oldest event, or nothing where it has none; a running command comes one turn nearer
its completion (45_commands.md R201). -/
def hostTurn (s : State) : State :=
  let s := { s with delay := s.delay - 1 }
  match s.pending with
  | [] => s
  | e :: rest => hostEvent e { s with pending := rest }

end Sys2Proof.Machine
end

