-- ==== Sys2Proof/Machine/Step.lean ====
section
/-! DEFINITION. One step of the block: the engine's completion step when it is due, else one turn of the host. -/

namespace Sys2Proof.Machine

/-- One step (45_commands.md R200, R201): a running command whose time has come completes, unless reset is asserted;
otherwise the host moves. -/
def step (s : State) : Host.Outcome State Fault Refusal :=
  match engineReady s with
  | some op => exec op s
  | none => .next (hostTurn s)

/-- The block fetches nothing (70_reset_and_hazards.md R264): its next command is the one latched by an accepted CMD
write. This is `s` with the word `w` of the table just issued to the idle engine, which moves next (log 8). -/
def State.withFetchWord (s : State) (nbits w : Nat) : State :=
  loadCommand (tableWord nbits w) s

end Sys2Proof.Machine
end

