-- ==== Sys2Proof/Safety.lean ====
section
/-! DEFINITION. What counts as a well-formed state, a safe step and the end of a run, in the terms the statements
use. -/

namespace Sys2Proof.Machine

/-- The reverse map of an alphabet, entry by entry: the index of the character, or INVALID (10_state.md R43). -/
def reverseMapOf (alphabet : List Byte) : List Byte :=
  (List.range 256).map fun c =>
    if BitVec.ofNat 8 c ∈ alphabet then BitVec.ofNat 8 (alphabet.idxOf (BitVec.ofNat 8 c)) else Config.invalid

/-- What the mode says of N, k and the alphabet (10_state.md R44; 40_config.md R115 to R118). -/
abbrev ModeOk (f : Frozen) : Prop :=
  (f.mode = .generic → f.fk = 0 ∧ ∀ k < 8, f.fn ≠ 2 ^ k) ∧
  (f.mode = .bitwise ∨ f.mode = .quantized → f.fn = 2 ^ f.fk ∧ 1 ≤ f.fk ∧ f.fk ≤ 7) ∧
  (f.mode = .quantized → Config.pad ∉ f.falpha)

/-- A frozen configuration in force (10_state.md R40, R43). -/
abbrev ConfiguredOk (f : Frozen) : Prop :=
  f.mode ≠ .none ∧ 2 ≤ f.fn ∧ f.fn ≤ 254 ∧ f.falpha.length = f.fn ∧ f.falpha.Nodup ∧
  f.falpha.head? = some f.fleader ∧ f.revmap = reverseMapOf f.falpha ∧ f.fmask = 2 ^ f.fk - 1 ∧ ModeOk f

/-- No configuration in force, or a well-formed one. -/
abbrev FrozenOk (f : Frozen) : Prop :=
  f.mode = .none ∨ ConfiguredOk f

/-- A RAM in canonical form, with no byte at or beyond its capacity, of a generation already taken. -/
abbrev RamOk (r : Ram) (cap draws : Nat) : Prop :=
  r.cells.wf ∧ r.cells.below cap ∧ r.gen < draws

/-- While a command runs its flags are as the issue left them, and no configuration is in force while CONFIG runs
(10_state.md R44; 20_memory.md R68). -/
abbrev BusyOk (s : State) : Prop :=
  (busy s = true → s.done = false ∧ s.err = .none ∧ s.absent = false ∧ s.errinfo = { pos := 0, base := 0 }) ∧
  (s.phase = .busy .config → s.frozen.mode = .none)

/-- The block's registers, flags, engine phase and mode are those of reset (70_reset_and_hazards.md R260). -/
abbrev AtReset (s : State) : Prop :=
  s.ctrl = { rfc4648 := false, ie := false } ∧ s.alen = 0 ∧ s.inLen = 0 ∧ s.outLen = 0 ∧ s.done = false ∧
  s.absent = false ∧ s.herr = false ∧ s.err = .none ∧ s.errinfo = { pos := 0, base := 0 } ∧ s.frozen.mode = .none ∧
  s.phase = .idle

/-- The errors that leave no result (10_state.md R44). -/
def noResult : ErrCode → Bool
  | .none => false
  | .alphabetTooLong => false
  | .ambiguousAlphabet => false
  | .alphabetTooShort => false
  | .padInAlphabet => false
  | .invalidInput => true
  | .invalidCharacter => true
  | .carryOverflow => true
  | .outputOverflow => true
  | .notConfigured => true
  | .illegalCommand => false

/-- What the outcome flags say of the result (10_state.md R44). -/
abbrev ResultOk (s : State) : Prop :=
  (s.absent = true → s.err = .none) ∧
  (s.absent = true ∨ noResult s.err = true → s.outLen = 0) ∧
  s.outLen.toNat ≤ s.params.outCap

/-- The invariant of the machine: admissible parameters, canonical RAMs, a well-formed configuration or none, the
invariants of 10_state.md R44, and the reset values while reset is asserted (70_reset_and_hazards.md R260). -/
abbrev State.Inv (s : State) : Prop :=
  s.params.wf = true ∧ RamOk s.alpha 256 s.draws ∧ RamOk s.inp s.params.inCap s.draws ∧
  RamOk s.out s.params.outCap s.draws ∧ FrozenOk s.frozen ∧ BusyOk s ∧ ResultOk s ∧
  (s.resetHeld = true → AtReset s)

/-- A safe step: it answers a next state, neither a fault nor a refusal. -/
def StepSafe (s : State) : Prop :=
  ∃ t, step s = .next t

/-- The engine is IDLE; only such a state ends a run (70_reset_and_hazards.md R275). -/
abbrev Quiescent (s : State) : Prop :=
  s.phase = .idle

/-- The end of a host program's run: quiescent, and the host has no event left (70_reset_and_hazards.md R275). -/
abbrev Finished (s : State) : Prop :=
  Quiescent s ∧ s.pending = []

end Sys2Proof.Machine
end

