-- ==== Sys2Proof/Certificates/Slice0/Obligations.lean ====
section
/-! DEFINITION. The statements for the provers, and the closed forms they speak in. -/

namespace Sys2Proof.Claims

open Sys2Proof Sys2Proof.Machine

/-- BE(s), the big-endian value of a byte sequence (00_scope.md R13). -/
def beValue (b : List Byte) : Nat :=
  b.foldl (fun v x => 256 * v + x.toNat) 0

/-- Val_N(t), the value of a digit sequence, most significant first (42_bitwise.md R149). -/
def valBase (n : Nat) (t : List Nat) : Nat :=
  t.foldl (fun v d => n * v + d) 0

/-- Digits_N(v), most significant first, no leading zero (42_bitwise.md R144). -/
def digitsOf (n v : Nat) : List Nat :=
  (Nat.digits n v).reverse

/-- MinBytes(v), big-endian, no leading zero byte (42_bitwise.md R149). -/
def minBytes (v : Nat) : List Byte :=
  (digitsOf 256 v).map (BitVec.ofNat 8)

/-- The d lowest base-n digits of v, most significant first. -/
def fixedDigits (n d v : Nat) : List Nat :=
  (List.range d).map fun i => v / n ^ (d - 1 - i) % n

/-- ceil(a / b). -/
def ceilDiv (a b : Nat) : Nat :=
  (a + b - 1) / b

/-- P = 8 / gcd(k, 8), the characters of a whole group (43_quantized.md R164). -/
def groupChars (k : Nat) : Nat :=
  8 / Nat.gcd k 8

/-- D = ceil(8L / k), the data characters of L bytes (43_quantized.md R162). -/
def dataChars (k len : Nat) : Nat :=
  ceilDiv (8 * len) k

/-- Every character of s has a digit. -/
abbrev AllValid (f : Frozen) (s : List Byte) : Prop :=
  ∀ c ∈ s, c ∈ f.falpha

/-- i is the least index of s whose character is not in the alphabet. -/
abbrev LeastInvalid (f : Frozen) (s : List Byte) (i : Nat) : Prop :=
  (∃ c, s[i]? = some c ∧ c ∉ f.falpha) ∧ ∀ j < i, ∀ c, s[j]? = some c → c ∈ f.falpha

/-- ENC(b) of the dispatch table (45_commands.md R202); none where the table has no entry or the carry overflows. -/
def encResult (f : Frozen) (b : List Byte) : Option (List Byte) :=
  match f.mode with
  | .none => none
  | .generic => genericEncode f b
  | .bitwise => some (bitwiseEncode f b)
  | .quantized => some (quantEncode f b)

/-- DEC(s) of the dispatch table (45_commands.md R202), none in mode NONE. -/
def decResult (f : Frozen) (s : List Byte) : Option Decoded :=
  match f.mode with
  | .none => none
  | .generic => some (genericDecode f s)
  | .bitwise => some (bitwiseDecode f s)
  | .quantized => some (quantDecode f s)

/-- The codec as mathematics, encoding: in QUANTIZED mode the digits of the bits shifted up to fill the last group
and the pads; else the leaders and the digits of the big-endian value (43_quantized.md R164; 42_bitwise.md R144;
44_generic.md R185). It speaks of the alphabet alone, of no datapath. -/
def codecEncode (f : Frozen) (b : List Byte) : List Byte :=
  let chars := fun ds : List Nat => ds.map fun d => f.falpha.getD d 0
  if f.mode = .quantized then
    let d := dataChars f.fk b.length
    chars (fixedDigits f.fn d (beValue b * 2 ^ (f.fk * d - 8 * b.length))) ++
      List.replicate (groupChars f.fk * ceilDiv d (groupChars f.fk) - d) 0x3D
  else
    let z := (b.takeWhile fun x => x == 0x00).length
    List.replicate z f.fleader ++ chars (digitsOf f.fn (beValue (b.drop z)))

/-- The codec as mathematics, decoding: the least invalid index, else the bytes (42_bitwise.md R149; 43_quantized.md
R168; 44_generic.md R191). -/
def codecDecode (f : Frozen) (s : List Byte) : Decoded :=
  let digits := fun t : List Byte => t.map fun c => f.falpha.idxOf c
  let data := if f.mode = .quantized then stripPads s else s
  match data.findIdx? fun c => !f.falpha.contains c with
  | some i => .invalid i
  | none =>
    if f.mode = .quantized then
      .bytes ((fixedDigits 256 (data.length * f.fk / 8)
        (valBase f.fn (digits data) / 2 ^ (data.length * f.fk % 8))).map (BitVec.ofNat 8))
    else
      let z := (data.takeWhile fun c => c == f.fleader).length
      .bytes (List.replicate z 0x00 ++ minBytes (valBase f.fn (digits (data.drop z))))

/-- s after command `op` ended with an error, all but what the command does to its own results (60_exceptions.md
R238). -/
def failed (e : ErrCode) (pos : BitVec 16) (base : Byte) (s : State) : State :=
  { s with err := e, errinfo := { pos := pos, base := base }, absent := false, done := true, phase := .idle }

/-- s after a CONFIG ended with an error: no configuration in force (60_exceptions.md R238). That the other frozen
contents, which R40 calls unspecified then, stay as they were is the model's choice (log 10). -/
def configFailed (e : ErrCode) (pos : BitVec 16) (s : State) : State :=
  { failed e pos 0 s with frozen := { s.frozen with mode := .none } }

/-- s after a data command ended with an error: OUT_LEN = 0 and every OUT byte unspecified (60_exceptions.md R238). The
form of the free values, a fresh generation taken from `draws`, is the model's choice (log 4). -/
def dataFailed (e : ErrCode) (pos : BitVec 16) (base : Byte) (s : State) : State :=
  { failed e pos base s with outLen := 0, out := { cells := [], gen := s.draws }, draws := s.draws + 1 }

/-- t is s after a data command delivered r: OUT[0..len(r)) holds r, the other OUT bytes are new free values (log 4),
and nothing else differs but OUT_LEN, ERR, ABSENT, DONE, the phase and the supply of free values (45_commands.md R203,
R206). -/
def Delivered (r : List Byte) (s t : State) : Prop :=
  (∀ i (h : i < r.length), t.out.read i = r[i]) ∧
  (∀ i, r.length ≤ i → t.out.read i = Config.freeByte s.draws i) ∧
  t.outLen.toNat = r.length ∧
  t = { s with out := t.out, outLen := t.outLen, err := .none, absent := false, done := true, phase := .idle,
               draws := s.draws + 1 }

/-- The registers, RAMs and host-side fields no command writes. -/
def InputsKept (s t : State) : Prop :=
  t.params = s.params ∧ t.ctrl = s.ctrl ∧ t.alen = s.alen ∧ t.inLen = s.inLen ∧ t.herr = s.herr ∧
  t.resetHeld = s.resetHeld ∧ (∀ a, t.alpha.read a = s.alpha.read a) ∧ (∀ a, t.inp.read a = s.inp.read a) ∧
  t.alpha = s.alpha ∧ t.inp = s.inp ∧ t.delay = s.delay ∧ t.pending = s.pending ∧ t.replies = s.replies

/-- A word-aligned offset of the ALPHA window (20_memory.md R62). -/
abbrev InAlpha (off : Offset) : Prop :=
  off.toNat % 4 = 0 ∧ 0x100 ≤ off.toNat ∧ off.toNat < 0x200

/-- A word-aligned offset of the IN window (20_memory.md R62). -/
abbrev InIn (p : Params) (off : Offset) : Prop :=
  off.toNat % 4 = 0 ∧ 0x10000 ≤ off.toNat ∧ off.toNat < 0x10000 + p.inCap

/-- A word-aligned offset of the OUT window (20_memory.md R62). -/
abbrev InOut (p : Params) (off : Offset) : Prop :=
  off.toNat % 4 = 0 ∧ 0x20000 ≤ off.toNat ∧ off.toNat < 0x20000 + p.outCap

/-- An access that breaks the width or alignment rule or reaches an unmapped offset (20_memory.md R62, R63, R67). -/
abbrev BadAccess (p : Params) (size : Nat) (off : Offset) : Prop :=
  size ≠ 4 ∨ off.toNat % 4 ≠ 0 ∨ (0x200 ≤ off.toNat ∧ off.toNat < 0x10000) ∨
  (0x10000 + p.inCap ≤ off.toNat ∧ off.toNat < 0x20000) ∨ 0x20000 + p.outCap ≤ off.toNat

/-- A 32-bit access whose write a running command drops (20_memory.md R68). -/
abbrev DroppedWhileBusy (p : Params) (size : Nat) (off : Offset) : Prop :=
  size = 4 ∧ (off = 0x04 ∨ off = 0x08 ∨ off = 0x0C ∨ off = 0x14 ∨ InAlpha off ∨ InIn p off)

/-- A 32-bit access whose read is a draw while `op` runs (20_memory.md R68). -/
abbrev DrawnWhileBusy (p : Params) (op : Instr) (size : Nat) (off : Offset) : Prop :=
  size = 4 ∧ (off = 0x18 ∨ off = 0x1C ∨ InOut p off ∨ (op = .config ∧ (off = 0x20 ∨ off = 0x24)))

end Sys2Proof.Claims

open Sys2Proof Sys2Proof.Machine Sys2Proof.Claims

/-! ### Encoding -/

/-- 30_encoding.md R91: the four command words as numbers. The clause on bytes, lowest first, is no rule of the spec: it
is the model's inference from R66 (log 16). -/
def Obligations.CommandWordsDecodeAsListed : Prop :=
  decodeWord 0x00000001 = .ok .config ∧ decodeWord 0x00000002 = .ok .encode ∧
  decodeWord 0x00000003 = .ok .decode ∧ decodeWord 0x00000004 = .ok .decodeUnsafe ∧
  decodeBytes [0x02, 0x00, 0x00, 0x00] = .ok .encode ∧
  encode .config = 0x00000001 ∧ encode .encode = 0x00000002 ∧
  encode .decode = 0x00000003 ∧ encode .decodeUnsafe = 0x00000004

/-- Encode, lay out, decode: every command comes back, through each of the decoder's entry points. The layout in bytes is
the model's (log 16). -/
def Obligations.EncodedCommandDecodesBack : Prop :=
  ∀ i : Instr, i.wf = true →
    (fieldsOfWord (encode i)).wf = true ∧ decodeWord (encode i) = .ok i ∧ decodeBytes (encodeBytes i) = .ok i ∧
    decodeTableWord 32 (encode i).toNat = some i

/-- 30_encoding.md R91, R92, R95: of all 2^32 words exactly the four command words decode, each to its command; a
word with a reserved bit set is rejected as such whatever its opcode. -/
def Obligations.DecoderAcceptsExactlyTheCommandWords : Prop :=
  ∀ v : Word,
    (decodeWord v = .ok .config ↔ v = 0x00000001) ∧ (decodeWord v = .ok .encode ↔ v = 0x00000002) ∧
    (decodeWord v = .ok .decode ↔ v = 0x00000003) ∧ (decodeWord v = .ok .decodeUnsafe ↔ v = 0x00000004) ∧
    (16 ≤ v.toNat → decodeWord v = .error (.reservedBits (v.extractLsb' 4 28))) ∧
    (v.toNat = 0 ∨ (5 ≤ v.toNat ∧ v.toNat < 16) → decodeWord v = .error (.reservedOpcode (v.extractLsb' 0 4)))

/-! ### Issue, steps, completion -/

/-- 45_commands.md R200, R209, 30_encoding.md R93. Idle, a command word: the clearing at issue, BUSY(op), CONFIG's
FMODE <- NONE, and nothing else but the model's own delay and supply of free values (log 7). That a CONFIG's issue keeps
the other frozen contents, which R40 calls unspecified then, is the model's choice too (log 10). Idle, any other word:
ILLEGAL_COMMAND and DONE in the same access, nothing else. Busy, any word: dropped, with HERR. -/
def Obligations.CmdWriteIssuesRecordsOrIsDropped : Prop :=
  ∀ (s : State) (v : Word),
    (s.phase = .idle →
      (∀ i : Instr, v = encode i →
        ∃ wait, hostWrite 4 0x0C v s =
          { s with
            done := false, err := .none, absent := false, errinfo := { pos := 0, base := 0 }
            phase := .busy i, delay := wait, draws := s.draws + 1
            frozen := if i = .config then { s.frozen with mode := .none } else s.frozen }) ∧
      ((∀ i : Instr, v ≠ encode i) →
        hostWrite 4 0x0C v s =
          { s with done := true, err := .illegalCommand, absent := false, errinfo := { pos := 0, base := 0 } })) ∧
    (s.phase ≠ .idle → hostWrite 4 0x0C v s = { s with herr := true })

/-- A step whose engine is due, reset being released, runs the command latched by the accepted CMD write, and so does
the step after the word of a command is placed for it. The delay is the model's own (log 7), and so is the placing
(log 8). -/
def Obligations.StepRunsTheLatchedCommand : Prop :=
  (∀ (s : State) (i : Instr), s.phase = .busy i → s.delay = 0 → s.resetHeld = false → step s = exec i s) ∧
  (∀ (s : State) (w : Nat) (i : Instr), decodeTableWord 32 w = some i →
    (s.withFetchWord 32 w).phase = .busy i ∧ (s.withFetchWord 32 w).resetHeld = false ∧
    step (s.withFetchWord 32 w) = exec i (s.withFetchWord 32 w))

/-- The host moves in every other step: its oldest event is served, and a running command comes one turn nearer its
completion step. With reset released a read or a write of the host is hostRead or hostWrite (20_memory.md R64, R65), and
a release of reset does nothing (log 14). The queue and the delay are the model's own (log 7, 8, 17). -/
def Obligations.StepServesTheOldestHostEvent : Prop :=
  (∀ s : State, s.phase = .idle ∨ 0 < s.delay ∨ s.resetHeld = true →
    (s.pending = [] → step s = .next { s with delay := s.delay - 1 }) ∧
    (∀ e rest, s.pending = e :: rest →
      step s = .next (hostEvent e { s with delay := s.delay - 1, pending := rest })) ∧
    (s.resetHeld = false →
      (∀ size off rest, s.pending = .read size off :: rest →
        step s = .next (hostRead size off { s with delay := s.delay - 1, pending := rest })) ∧
      (∀ size off v rest, s.pending = .write size off v :: rest →
        step s = .next (hostWrite size off v { s with delay := s.delay - 1, pending := rest })))) ∧
  (∀ s : State, s.resetHeld = false →
    (∀ size off, hostEvent (.read size off) s = hostRead size off s) ∧
    (∀ size off v, hostEvent (.write size off v) s = hostWrite size off v s) ∧
    hostEvent .releaseReset s = s)

/-- 45_commands.md R201 and 44_generic.md R193: whatever command completes, in whatever state with a well-formed
configuration or none, it answers a next state with DONE = 1 and the engine IDLE; CARRY_OVERFLOW is never reached. -/
def Obligations.EveryCommandCompletes : Prop :=
  ∀ (i : Instr) (s : State), FrozenOk s.frozen →
    ∃ t, exec i s = .next t ∧ t.done = true ∧ t.phase = .idle ∧ t.err ≠ .carryOverflow

/-- 45_commands.md R201: while no reset comes, a running command is served `delay` host turns and then takes its
completion step, on the operands as they stood. -/
def Obligations.IssuedCommandCompletesAfterItsDelay : Prop :=
  ∀ (s : State) (op : Instr), State.Inv s → s.phase = .busy op → HostEvent.assertReset ∉ s.pending →
    ∃ u t, Sys2Proof.core.run s.delay s = .next u ∧ u.phase = .busy op ∧ u.delay = 0 ∧
      u.ctrl = s.ctrl ∧ u.alen = s.alen ∧ u.inLen = s.inLen ∧ u.alpha = s.alpha ∧ u.inp = s.inp ∧
      u.frozen = s.frozen ∧ u.params = s.params ∧
      exec op u = .next t ∧ Sys2Proof.core.run (s.delay + 1) s = .next t ∧ t.phase = .idle ∧ t.done = true

/-- 20_memory.md R73, R68: a host turn while a command runs leaves the command's operands, the frozen configuration
and the results as they stood at issue, unless it is a reset. -/
def Obligations.OperandsAreStableWhileBusy : Prop :=
  ∀ (s t : State) (op : Instr), s.phase = .busy op → 0 < s.delay → s.resetHeld = false →
    (∀ e rest, s.pending = e :: rest → e ≠ .assertReset) → step s = .next t →
    t.resetHeld = false ∧ t.phase = .busy op ∧ t.params = s.params ∧ t.ctrl = s.ctrl ∧ t.alen = s.alen ∧ t.inLen = s.inLen ∧
    t.alpha = s.alpha ∧ t.inp = s.inp ∧ t.frozen = s.frozen ∧
    t.out = s.out ∧ t.outLen = s.outLen ∧ t.err = s.err ∧ t.errinfo = s.errinfo ∧ t.absent = s.absent

/-- 20_memory.md R75, 40_config.md R120: in one step only a CONFIG (its issue or its completion) or a reset alters
the frozen configuration. -/
def Obligations.FrozenConfigurationChangesOnlyByConfigOrReset : Prop :=
  ∀ s t : State, step s = .next t → t.frozen ≠ s.frozen →
    (s.phase = .busy .config ∧ s.delay = 0 ∧ s.resetHeld = false) ∨
    (s.phase = .idle ∧ s.resetHeld = false ∧ ∃ rest, s.pending = .write 4 0x0C 0x00000001 :: rest) ∨
    (∃ rest, s.pending = .assertReset :: rest) ∨ (s.resetHeld = true ∧ ∃ rest, s.pending = .releaseReset :: rest)

/-- The frame of every command (20_memory.md R75, 60_exceptions.md R238, R246): no command writes CTRL, ALEN, IN_LEN,
HERR, ALPHA or IN; no data command writes the frozen configuration; CONFIG writes neither OUT nor OUT_LEN. -/
def Obligations.CommandsWriteOnlyTheirResults : Prop :=
  ∀ (i : Instr) (s t : State), exec i s = .next t →
    InputsKept s t ∧
    (i ≠ .config → t.frozen = s.frozen) ∧
    (i = .config → t.out = s.out ∧ (∀ a, t.out.read a = s.out.read a) ∧ t.outLen = s.outLen ∧ t.draws = s.draws)

/-- 45_commands.md R210: a data command's outcome is a function of its operands: it agrees in two states that agree
on the configuration, IN_LEN, the bytes IN[0..IN_LEN) and the capacities, whatever else differs. -/
def Obligations.DataResultDependsOnlyOnItsOperands : Prop :=
  ∀ (i : Instr) (s₁ s₂ t₁ t₂ : State), i ≠ .config →
    s₁.frozen = s₂.frozen → s₁.params = s₂.params → s₁.params.wf = true → s₁.inLen = s₂.inLen →
    s₁.errinfo = s₂.errinfo →
    (∀ a < s₁.inLen.toNat, s₁.inp.read a = s₂.inp.read a) →
    exec i s₁ = .next t₁ → exec i s₂ = .next t₂ →
    t₁.err = t₂.err ∧ t₁.absent = t₂.absent ∧ t₁.errinfo = t₂.errinfo ∧ t₁.outLen = t₂.outLen ∧
    ∀ a < t₁.outLen.toNat, t₁.out.read a = t₂.out.read a

/-- 45_commands.md R210 for CONFIG: its outcome is a function of ALEN, ALPHA[0..ALEN) and CTRL.RFC4648. -/
def Obligations.ConfigOutcomeDependsOnlyOnItsOperands : Prop :=
  ∀ s₁ s₂ t₁ t₂ : State, s₁.alen = s₂.alen → s₁.ctrl.rfc4648 = s₂.ctrl.rfc4648 →
    (s₁.alen.toNat ≤ 254 → ∀ a < s₁.alen.toNat, s₁.alpha.read a = s₂.alpha.read a) →
    s₁.errinfo = s₂.errinfo → exec .config s₁ = .next t₁ → exec .config s₂ = .next t₂ →
    t₁.err = t₂.err ∧ t₁.errinfo = t₂.errinfo ∧ t₁.frozen.mode = t₂.frozen.mode ∧
    (t₁.frozen.mode ≠ .none → t₁.frozen = t₂.frozen)

/-! ### CONFIG -/

/-- 40_config.md R111, 60_exceptions.md R231, R238. That the frozen contents but FMODE stay is log 10. -/
def Obligations.ConfigRejectsLongAlphabets : Prop :=
  ∀ s : State, 255 ≤ s.alen.toNat → exec .config s = .next (configFailed .alphabetTooLong 0 s)

/-- 40_config.md R112, 60_exceptions.md R233. That the frozen contents but FMODE stay is log 10. -/
def Obligations.ConfigRejectsShortAlphabets : Prop :=
  ∀ s : State, s.alen.toNat < 2 → exec .config s = .next (configFailed .alphabetTooShort 0 s)

/-- 60_exceptions.md R232, 40_config.md R113: the index reported is the first whose character stands earlier. That the
frozen contents but FMODE stay is log 10. -/
def Obligations.ConfigReportsFirstRepeatedCharacter : Prop :=
  ∀ (s : State) (i : Nat), 2 ≤ s.alen.toNat → s.alen.toNat ≤ 254 → i < s.alen.toNat →
    (∃ j < i, s.alpha.read j = s.alpha.read i) →
    (∀ i' < i, ∀ j < i', s.alpha.read j ≠ s.alpha.read i') →
    exec .config s = .next (configFailed .ambiguousAlphabet (BitVec.ofNat 16 i) s)

/-- 60_exceptions.md R234, 40_config.md R118: a pad character in an alphabet that would be QUANTIZED. That the frozen
contents but FMODE stay is log 10. -/
def Obligations.ConfigRejectsPadInQuantizedAlphabet : Prop :=
  ∀ (s : State) (k i : Nat), 1 ≤ k → k ≤ 7 → s.alen.toNat = 2 ^ k → s.ctrl.rfc4648 = true →
    (s.alpha.take s.alen.toNat).Nodup → i < s.alen.toNat → s.alpha.read i = 0x3D →
    exec .config s = .next (configFailed .padInAlphabet (BitVec.ofNat 16 i) s)

/-- 40_config.md R116, R117, R120, 10_state.md R43: a valid alphabet of 2^k characters is frozen with its reverse
map, in QUANTIZED or BITWISE mode as CTRL.RFC4648 says; nothing else changes but ERR, ABSENT, DONE and the phase. -/
def Obligations.ConfigFreezesPowerOfTwoAlphabets : Prop :=
  ∀ (s : State) (k : Nat), 1 ≤ k → k ≤ 7 → s.alen.toNat = 2 ^ k →
    (s.alpha.take s.alen.toNat).Nodup → (s.ctrl.rfc4648 = true → (0x3D : Byte) ∉ s.alpha.take s.alen.toNat) →
    ∃ rev : List Byte, rev.length = 256 ∧
      (∀ i < s.alen.toNat, rev[(s.alpha.read i).toNat]? = some (BitVec.ofNat 8 i)) ∧
      (∀ c : Byte, c ∉ s.alpha.take s.alen.toNat → rev[c.toNat]? = some 0xFF) ∧
      exec .config s = .next
        { s with
          frozen :=
            { falpha := s.alpha.take s.alen.toNat, fn := 2 ^ k, fleader := s.alpha.read 0, revmap := rev
              mode := if s.ctrl.rfc4648 then .quantized else .bitwise, fk := k, fmask := 2 ^ k - 1 }
          err := .none, absent := false, done := true, phase := .idle }

/-- 40_config.md R115, R117, R120, 10_state.md R43: a valid alphabet of any other size is frozen in GENERIC mode,
whatever CTRL.RFC4648 holds. -/
def Obligations.ConfigFreezesOtherAlphabetsAsGeneric : Prop :=
  ∀ s : State, 3 ≤ s.alen.toNat → s.alen.toNat ≤ 254 → (∀ k, s.alen.toNat ≠ 2 ^ k) →
    (s.alpha.take s.alen.toNat).Nodup →
    ∃ rev : List Byte, rev.length = 256 ∧
      (∀ i < s.alen.toNat, rev[(s.alpha.read i).toNat]? = some (BitVec.ofNat 8 i)) ∧
      (∀ c : Byte, c ∉ s.alpha.take s.alen.toNat → rev[c.toNat]? = some 0xFF) ∧
      exec .config s = .next
        { s with
          frozen :=
            { falpha := s.alpha.take s.alen.toNat, fn := s.alen.toNat, fleader := s.alpha.read 0, revmap := rev
              mode := .generic, fk := 0, fmask := 0 }
          err := .none, absent := false, done := true, phase := .idle }

/-! ### The data commands -/

/-- 45_commands.md R208, 60_exceptions.md R240, R238. The fresh generation of OUT, taken from `draws`, is log 4. -/
def Obligations.UnconfiguredDataCommandFails : Prop :=
  ∀ (s : State) (i : Instr), i ≠ .config → s.frozen.mode = .none →
    exec i s = .next (dataFailed .notConfigured 0 0 s)

/-- 45_commands.md R207, 60_exceptions.md R235. The fresh generation of OUT, taken from `draws`, is log 4. -/
def Obligations.OversizedInputFails : Prop :=
  ∀ (s : State) (i : Instr), i ≠ .config → s.frozen.mode ≠ .none → s.params.inCap < s.inLen.toNat →
    exec i s = .next (dataFailed .invalidInput 0 0 s)

/-- 45_commands.md R206: a result longer than OUT_CAP is refused whole. The fresh generation of OUT is log 4. -/
def Obligations.ResultLongerThanOutFails : Prop :=
  (∀ (s : State) (r : List Byte), s.inLen.toNat ≤ s.params.inCap →
    encResult s.frozen (inputOperand s) = some r → s.params.outCap < r.length →
    exec .encode s = .next (dataFailed .outputOverflow 0 0 s)) ∧
  (∀ (s : State) (r : List Byte), s.inLen.toNat ≤ s.params.inCap →
    decResult s.frozen (inputOperand s) = some (.bytes r) → s.params.outCap < r.length →
    exec .decode s = .next (dataFailed .outputOverflow 0 0 s) ∧
    exec .decodeUnsafe s = .next (dataFailed .outputOverflow 0 0 s))

/-- 45_commands.md R203, R206: ENCODE completes with ENC(IN[0..IN_LEN)) in OUT. -/
def Obligations.EncodeDeliversTheEncodedString : Prop :=
  ∀ (s : State) (r : List Byte), s.params.wf = true → s.inLen.toNat ≤ s.params.inCap →
    encResult s.frozen (inputOperand s) = some r → r.length ≤ s.params.outCap →
    ∃ t, exec .encode s = .next t ∧ Delivered r s t

/-- 45_commands.md R204, R206: DECODE completes with DEC(IN[0..IN_LEN)) in OUT. -/
def Obligations.DecodeDeliversTheDecodedBytes : Prop :=
  ∀ (s : State) (r : List Byte), s.params.wf = true → s.inLen.toNat ≤ s.params.inCap →
    decResult s.frozen (inputOperand s) = some (.bytes r) → r.length ≤ s.params.outCap →
    ∃ t, exec .decode s = .next t ∧ Delivered r s t

/-- 45_commands.md R205, R206: DECODE_UNSAFE delivers the same bytes. -/
def Obligations.DecodeUnsafeDeliversTheDecodedBytes : Prop :=
  ∀ (s : State) (r : List Byte), s.params.wf = true → s.inLen.toNat ≤ s.params.inCap →
    decResult s.frozen (inputOperand s) = some (.bytes r) → r.length ≤ s.params.outCap →
    ∃ t, exec .decodeUnsafe s = .next t ∧ Delivered r s t

/-- 60_exceptions.md R237, R243, 45_commands.md R204, R205: an invalid character at i, in the configuration's own
alphabet, ends DECODE with INVALID_CHARACTER(i, N) and DECODE_UNSAFE with ABSENT and the same ERRINFO. The fresh
generation of OUT, taken from `draws`, is log 4. -/
def Obligations.InvalidCharacterIsErrorOrAbsent : Prop :=
  ∀ (s : State) (i : Nat), ConfiguredOk s.frozen → s.inLen.toNat ≤ s.params.inCap →
    LeastInvalid s.frozen (if s.frozen.mode = .quantized then stripPads (inputOperand s) else inputOperand s) i →
    exec .decode s =
      .next (dataFailed .invalidCharacter (BitVec.ofNat 16 i) (BitVec.ofNat 8 s.frozen.fn) s) ∧
    exec .decodeUnsafe s =
      .next { dataFailed .none (BitVec.ofNat 16 i) (BitVec.ofNat 8 s.frozen.fn) s with absent := true }

/-- The headline: from every well-formed configured state, ENCODE, DECODE and DECODE_UNSAFE compute the codec of the
frozen alphabet, whatever the mode (45_commands.md R202 to R206). -/
def Obligations.DataCommandsComputeTheCodec : Prop :=
  ∀ s : State, s.params.wf = true → ConfiguredOk s.frozen → s.inLen.toNat ≤ s.params.inCap →
    ((codecEncode s.frozen (inputOperand s)).length ≤ s.params.outCap →
      ∃ t, exec .encode s = .next t ∧ Delivered (codecEncode s.frozen (inputOperand s)) s t) ∧
    (∀ r, codecDecode s.frozen (inputOperand s) = .bytes r → r.length ≤ s.params.outCap →
      (∃ t, exec .decode s = .next t ∧ Delivered r s t) ∧
      (∃ t, exec .decodeUnsafe s = .next t ∧ Delivered r s t)) ∧
    (∀ i, codecDecode s.frozen (inputOperand s) = .invalid i →
      exec .decode s =
        .next (dataFailed .invalidCharacter (BitVec.ofNat 16 i) (BitVec.ofNat 8 s.frozen.fn) s) ∧
      exec .decodeUnsafe s =
        .next { dataFailed .none (BitVec.ofNat 16 i) (BitVec.ofNat 8 s.frozen.fn) s with absent := true }) ∧
    codecDecode s.frozen (inputOperand s) ≠ .carryOverflow

/-- 45_commands.md R212, "Round trip": after a successful ENCODE, a DECODE under the same configuration of the bytes
ENCODE left in OUT gives back the bytes ENCODE read from IN, in every mode. -/
def Obligations.EncodeThenDecodeReturnsTheInput : Prop :=
  ∀ s t s' : State, s.params.wf = true → ConfiguredOk s.frozen → exec .encode s = .next t → t.err = .none →
    s'.frozen = s.frozen → s'.params = s.params → s'.inLen = t.outLen → t.outLen.toNat ≤ s.params.inCap →
    (∀ a < t.outLen.toNat, s'.inp.read a = t.out.read a) → s.inLen.toNat ≤ s.params.outCap →
    ∃ t', exec .decode s' = .next t' ∧ t'.err = .none ∧ t'.outLen = s.inLen ∧
      ∀ a < s.inLen.toNat, t'.out.read a = s.inp.read a

/-- 45_commands.md R212, "Empty identity": every data command turns the empty input into the empty result, in every
mode. -/
def Obligations.EmptyInputGivesEmptyResult : Prop :=
  ∀ (s : State) (i : Instr), i ≠ .config → s.params.wf = true → ConfiguredOk s.frozen → s.inLen = 0 →
    ∃ t, exec i s = .next t ∧ Delivered [] s t

/-! ### Datapaths -/

/-- 41_zero_run.md R130, R131. -/
def Obligations.ZeroRunsAreTheLongest : Prop :=
  (∀ b : List Byte, zeroCount b ≤ b.length ∧ (∀ i < zeroCount b, b[i]? = some 0x00) ∧ b[zeroCount b]? ≠ some 0x00) ∧
  (∀ (f : Frozen) (s : List Byte), leaderCount f s ≤ s.length ∧ (∀ i < leaderCount f s, s[i]? = some f.fleader) ∧
    s[leaderCount f s]? ≠ some f.fleader)

/-- 42_bitwise.md R144. -/
def Obligations.BitwiseEncodeClosedForm : Prop :=
  ∀ (f : Frozen) (b : List Byte), ConfiguredOk f → f.fn = 2 ^ f.fk →
    bitwiseEncode f b =
      List.replicate (zeroCount b) f.fleader ++ (digitsOf f.fn (beValue (b.drop (zeroCount b)))).map f.char

/-- 42_bitwise.md R149. -/
def Obligations.BitwiseDecodeClosedForm : Prop :=
  ∀ (f : Frozen) (s : List Byte), ConfiguredOk f → f.fn = 2 ^ f.fk → AllValid f (s.drop (leaderCount f s)) →
    bitwiseDecode f s =
      .bytes (List.replicate (leaderCount f s) 0x00 ++
        minBytes (valBase f.fn ((s.drop (leaderCount f s)).map f.digitValue)))

/-- 44_generic.md R185. -/
def Obligations.GenericEncodeClosedForm : Prop :=
  ∀ (f : Frozen) (b : List Byte), ConfiguredOk f →
    genericEncode f b =
      some (List.replicate (zeroCount b) f.fleader ++ (digitsOf f.fn (beValue (b.drop (zeroCount b)))).map f.char)

/-- 44_generic.md R191. -/
def Obligations.GenericDecodeClosedForm : Prop :=
  ∀ (f : Frozen) (s : List Byte), ConfiguredOk f → AllValid f (s.drop (leaderCount f s)) →
    genericDecode f s =
      .bytes (List.replicate (leaderCount f s) 0x00 ++
        minBytes (valBase f.fn ((s.drop (leaderCount f s)).map f.digitValue)))

/-- 42_bitwise.md R151: on a power-of-two alphabet the two paths agree on every byte sequence and on every string,
the INVALID result and its index included. -/
def Obligations.BitwiseAndGenericPathsAgree : Prop :=
  ∀ f : Frozen, ConfiguredOk f → f.fn = 2 ^ f.fk →
    (∀ b, genericEncode f b = some (bitwiseEncode f b)) ∧ (∀ s, genericDecode f s = bitwiseDecode f s)

/-- 44_generic.md R194: in GENERIC and BITWISE mode ENC and DEC are inverse to each other. -/
def Obligations.StandardModesAreBijective : Prop :=
  ∀ f : Frozen, ConfiguredOk f → f.mode = .generic ∨ f.mode = .bitwise →
    (∀ b, ∃ e, encResult f b = some e ∧ AllValid f e ∧ decResult f e = some (.bytes b)) ∧
    (∀ s, AllValid f s → ∃ b, decResult f s = some (.bytes b) ∧ encResult f b = some s)

/-- 43_quantized.md R160 to R163 in closed form: the D base-N digits of the input's bits shifted up to fill the last
group, then pads up to a whole group. -/
def Obligations.QuantEncodeClosedForm : Prop :=
  ∀ (f : Frozen) (b : List Byte), ConfiguredOk f → f.mode = .quantized →
    quantEncode f b =
      (fixedDigits f.fn (dataChars f.fk b.length)
        (beValue b * 2 ^ (f.fk * dataChars f.fk b.length - 8 * b.length))).map f.char ++
      List.replicate
        (groupChars f.fk * ceilDiv (dataChars f.fk b.length) (groupChars f.fk) - dataChars f.fk b.length) 0x3D

/-- 43_quantized.md R165 to R169 in closed form: the digits before the trailing pads, most significant end first,
whole bytes only, with no check of the pads, of the length or of the bits left over. -/
def Obligations.QuantDecodeClosedForm : Prop :=
  ∀ (f : Frozen) (s : List Byte), ConfiguredOk f → f.mode = .quantized → AllValid f (stripPads s) →
    quantDecode f s =
      .bytes ((fixedDigits 256 ((stripPads s).length * f.fk / 8)
        (valBase f.fn ((stripPads s).map f.digitValue) / 2 ^ ((stripPads s).length * f.fk % 8))).map (BitVec.ofNat 8))

/-- 43_quantized.md R166: what is stripped is the whole trailing run of pads, and only that. -/
def Obligations.StripRemovesExactlyTheTrailingPads : Prop :=
  ∀ s : List Byte, (∃ n, s = stripPads s ++ List.replicate n 0x3D) ∧ (stripPads s).getLast? ≠ some 0x3D

/-- 43_quantized.md R170. -/
def Obligations.QuantizedRoundTrip : Prop :=
  ∀ (f : Frozen) (b : List Byte), ConfiguredOk f → f.mode = .quantized →
    quantDecode f (quantEncode f b) = .bytes b

/-- 43_quantized.md R164. -/
def Obligations.QuantEncodeLength : Prop :=
  ∀ (f : Frozen) (b : List Byte), ConfiguredOk f → f.mode = .quantized →
    (quantEncode f b).length = groupChars f.fk * ceilDiv (dataChars f.fk b.length) (groupChars f.fk) ∧
    (quantEncode f b).length * f.fk % 8 = 0 ∧
    ∃ data n, quantEncode f b = data ++ List.replicate n 0x3D ∧ data.length = dataChars f.fk b.length ∧
      AllValid f data ∧ n < groupChars f.fk ∧ (data.length + n) % groupChars f.fk = 0

/-- 41_zero_run.md R135: in BITWISE and GENERIC mode exactly as many leaders as leading zero bytes. -/
def Obligations.LeadingZerosBecomeLeaders : Prop :=
  ∀ (f : Frozen) (b e : List Byte), ConfiguredOk f → f.mode = .generic ∨ f.mode = .bitwise →
    encResult f b = some e → leaderCount f e = zeroCount b

/-- 42_bitwise.md R146, 43_quantized.md R167, 44_generic.md R189: INVALID(i) is returned exactly for the least index
of a character outside the alphabet, below the trailing pads in QUANTIZED mode. -/
def Obligations.InvalidIndexIsTheLeast : Prop :=
  ∀ (f : Frozen) (s : List Byte) (i : Nat), ConfiguredOk f →
    (decResult f s = some (.invalid i) ↔
      LeastInvalid f (if f.mode = .quantized then stripPads s else s) i)

/-- 45_commands.md R204, 60_exceptions.md R236: a decoded result is never longer than its string, and an encoded one
never longer than 8 characters a byte; so no data command overflows where OUT_CAP is at least 8 * IN_CAP. -/
def Obligations.RoomyOutputNeverOverflows : Prop :=
  (∀ (f : Frozen) (s r : List Byte), ConfiguredOk f → decResult f s = some (.bytes r) → r.length ≤ s.length) ∧
  (∀ (f : Frozen) (b e : List Byte), ConfiguredOk f → encResult f b = some e → e.length ≤ 8 * b.length) ∧
  (∀ (i : Instr) (s t : State), FrozenOk s.frozen → 8 * s.params.inCap ≤ s.params.outCap →
    exec i s = .next t → t.err ≠ .outputOverflow)

/-! ### Host port -/

/-- 00_scope.md R9: the window stands at a multiple of 0x40000, and each of its offsets has one system address. -/
def Obligations.WindowIsAlignedAndAddressable : Prop :=
  Config.blockBase % 0x40000 = 0 ∧ (∀ off : Offset, windowOffset (systemAddress off) = some off) ∧
  (∀ (a : Nat) (off : Offset), windowOffset a = some off → systemAddress off = a)

/-- 20_memory.md R67, R63: a host-access error sets HERR; its write is ignored, its read returns 0, in every phase. -/
def Obligations.BadAccessSetsOnlyHerr : Prop :=
  ∀ (s : State) (size : Nat) (off : Offset), s.params.wf = true →
    (BadAccess s.params size off →
      hostRead size off s = { s with herr := true, replies := s.replies ++ [0] } ∧
      ∀ v, hostWrite size off v s = { s with herr := true }) ∧
    (InOut s.params off → ∀ v, hostWrite 4 off v s = { s with herr := true })

/-- 10_state.md R34: reserved offsets read 0 and ignore writes, with no HERR. -/
def Obligations.ReservedOffsetsReadZero : Prop :=
  ∀ (s : State) (off : Offset), off.toNat % 4 = 0 → 0x30 ≤ off.toNat → off.toNat ≤ 0xFF →
    hostRead 4 off s = { s with replies := s.replies ++ [0] } ∧ ∀ v, hostWrite 4 off v s = s

/-- 20_memory.md R67, 10_state.md R26: HERR is sticky: in one step only a write of 1 to STATUS bit 4 or the assertion
or the release of reset clears it. -/
def Obligations.HerrClearsOnlyByStatusWriteOrReset : Prop :=
  ∀ s t : State, step s = .next t → s.herr = true → t.herr = false →
    ∃ e rest, s.pending = e :: rest ∧
      (e = .assertReset ∨ (s.resetHeld = true ∧ e = .releaseReset) ∨
        (s.resetHeld = false ∧ ∃ v : Word, e = .write 4 0x10 v ∧ v.getLsbD 4 = true))

/-- 60_exceptions.md R248: in one step DONE falls only by a write of 1 to STATUS bit 1, by the issue of a command, or
by the assertion or the release of reset. -/
def Obligations.DoneFallsOnlyByStatusWriteIssueOrReset : Prop :=
  ∀ s t : State, step s = .next t → s.done = true → t.done = false →
    ∃ e rest, s.pending = e :: rest ∧
      (e = .assertReset ∨ (s.resetHeld = true ∧ e = .releaseReset) ∨
        (s.resetHeld = false ∧ ∃ v : Word, e = .write 4 0x10 v ∧ v.getLsbD 1 = true) ∨
        (s.phase = .idle ∧ s.resetHeld = false ∧ ∃ i : Instr, e = .write 4 0x0C (encode i)))

/-- 20_memory.md R66, R65, R64: while idle, a word written to ALPHA or IN changes exactly its four bytes, byte j being
bits 8j+7 : 8j, and is read back; a read of ALPHA, IN or OUT, written before or not, returns the word the RAM holds
there and changes nothing; and that word has its bytes at those places. That a byte never written holds one free value,
the same at each read, is the model's choice (log 3; R71, R78). -/
def Obligations.RamWordsAreLittleEndian : Prop :=
  (∀ (s : State) (off : Offset) (v : Word), s.phase = .idle → InAlpha off →
    ∃ t, hostWrite 4 off v s = t ∧ t = { s with alpha := t.alpha } ∧
      (∀ j < 4, t.alpha.read (off.toNat - 0x100 + j) = v.extractLsb' (8 * j) 8) ∧
      (∀ a, a < off.toNat - 0x100 ∨ off.toNat - 0x100 + 4 ≤ a → t.alpha.read a = s.alpha.read a) ∧
      hostRead 4 off t = { t with replies := t.replies ++ [v] }) ∧
  (∀ (s : State) (off : Offset) (v : Word), s.phase = .idle → s.params.wf = true → InIn s.params off →
    ∃ t, hostWrite 4 off v s = t ∧ t = { s with inp := t.inp } ∧
      (∀ j < 4, t.inp.read (off.toNat - 0x10000 + j) = v.extractLsb' (8 * j) 8) ∧
      (∀ a, a < off.toNat - 0x10000 ∨ off.toNat - 0x10000 + 4 ≤ a → t.inp.read a = s.inp.read a) ∧
      hostRead 4 off t = { t with replies := t.replies ++ [v] }) ∧
  (∀ (s : State) (off : Offset), s.phase = .idle → s.params.wf = true →
    (InAlpha off → hostRead 4 off s = { s with replies := s.replies ++ [s.alpha.readWord (off.toNat - 0x100)] }) ∧
    (InIn s.params off →
      hostRead 4 off s = { s with replies := s.replies ++ [s.inp.readWord (off.toNat - 0x10000)] }) ∧
    (InOut s.params off →
      hostRead 4 off s = { s with replies := s.replies ++ [s.out.readWord (off.toNat - 0x20000)] })) ∧
  (∀ (r : Ram) (b : Nat),
    (r.readWord b).toNat =
      (r.read b).toNat + 2 ^ 8 * (r.read (b + 1)).toNat + 2 ^ 16 * (r.read (b + 2)).toNat +
        2 ^ 24 * (r.read (b + 3)).toNat)

/-- 10_state.md R23, R24, R28: while idle, CTRL keeps its two bits of a written word, ALEN and IN_LEN keep all 32. -/
def Obligations.IdleRegisterWritesReadBack : Prop :=
  ∀ (s : State) (v : Word), s.phase = .idle →
    hostWrite 4 0x04 v s = { s with ctrl := { rfc4648 := v.getLsbD 0, ie := v.getLsbD 1 } } ∧
    hostRead 4 0x04 (hostWrite 4 0x04 v s) =
      { hostWrite 4 0x04 v s with replies := s.replies ++ [v &&& 0x00000003] } ∧
    hostWrite 4 0x08 v s = { s with alen := v } ∧
    hostRead 4 0x08 (hostWrite 4 0x08 v s) = { s with alen := v, replies := s.replies ++ [v] } ∧
    hostWrite 4 0x14 v s = { s with inLen := v } ∧
    hostRead 4 0x14 (hostWrite 4 0x14 v s) = { s with inLen := v, replies := s.replies ++ [v] }

/-- 10_state.md section 2: the read-only registers ignore writes in every phase, and, with the engine idle, show the
constants, the result length, the error information and the frozen configuration. -/
def Obligations.ReadOnlyRegistersShowTheirState : Prop :=
  (∀ (s : State) (v : Word) (off : Offset),
    off = 0x00 ∨ off = 0x18 ∨ off = 0x1C ∨ off = 0x20 ∨ off = 0x24 ∨ off = 0x28 ∨ off = 0x2C →
    hostWrite 4 off v s = s) ∧
  (∀ s : State, s.phase = .idle →
    hostRead 4 0x00 s = { s with replies := s.replies ++ [0x42580007] } ∧
    hostRead 4 0x0C s = { s with replies := s.replies ++ [0] } ∧
    hostRead 4 0x18 s = { s with replies := s.replies ++ [s.outLen] } ∧
    (∃ w, hostRead 4 0x1C s = { s with replies := s.replies ++ [w] } ∧ w.extractLsb' 0 16 = s.errinfo.pos ∧
      w.extractLsb' 16 8 = s.errinfo.base ∧ w.extractLsb' 24 8 = 0) ∧
    (s.frozen.mode = .none →
      hostRead 4 0x20 s = { s with replies := s.replies ++ [0] } ∧
      hostRead 4 0x24 s = { s with replies := s.replies ++ [0] }) ∧
    (ConfiguredOk s.frozen →
      hostRead 4 0x20 s = { s with replies := s.replies ++ [s.frozen.fleader.setWidth 32] } ∧
      hostRead 4 0x24 s = { s with replies := s.replies ++ [BitVec.ofNat 32 s.frozen.fn] }) ∧
    hostRead 4 0x28 s = { s with replies := s.replies ++ [BitVec.ofNat 32 s.params.inCap] } ∧
    hostRead 4 0x2C s = { s with replies := s.replies ++ [BitVec.ofNat 32 s.params.outCap] })

/-- 10_state.md R26, R27, 60_exceptions.md R230: STATUS by field, in every phase; a write clears DONE and HERR where
its bit is 1 and does nothing else. -/
def Obligations.StatusReadsAndClearsByField : Prop :=
  ∀ s : State,
    (∃ w, hostRead 4 0x10 s = { s with replies := s.replies ++ [w] } ∧
      (w.getLsbD 0 = true ↔ s.phase ≠ .idle) ∧ w.getLsbD 1 = s.done ∧
      (w.getLsbD 2 = true ↔ s.frozen.mode ≠ .none) ∧ w.getLsbD 3 = s.absent ∧ w.getLsbD 4 = s.herr ∧
      w.extractLsb' 5 3 = 0 ∧ w.extractLsb' 12 4 = 0 ∧ w.extractLsb' 18 2 = 0 ∧ w.extractLsb' 23 9 = 0 ∧
      (w.extractLsb' 8 4).toNat =
        (match s.err with
          | .none => 0 | .alphabetTooLong => 1 | .ambiguousAlphabet => 2 | .alphabetTooShort => 3
          | .padInAlphabet => 4 | .invalidInput => 5 | .invalidCharacter => 6 | .carryOverflow => 7
          | .outputOverflow => 8 | .notConfigured => 9 | .illegalCommand => 10) ∧
      (w.extractLsb' 16 2).toNat =
        (match s.frozen.mode with | .none => 0 | .generic => 1 | .bitwise => 2 | .quantized => 3) ∧
      (s.frozen.mode = .none → w.extractLsb' 20 3 = 0) ∧
      (ConfiguredOk s.frozen → (w.extractLsb' 20 3).toNat = s.frozen.fk)) ∧
    ∀ v, hostWrite 4 0x10 v s = { s with done := s.done && !v.getLsbD 1, herr := s.herr && !v.getLsbD 4 }

/-- 20_memory.md R68, whole: what the host's accesses do while a command runs. That a draw is Config.freeWord of
`draws`, and advances it, is the model's form of it (log 5). -/
def Obligations.BusyAccessesAreDroppedDrawnOrExact : Prop :=
  ∀ (s : State) (op : Instr), State.Inv s → s.phase = .busy op →
    (∀ size off v, DroppedWhileBusy s.params size off → hostWrite size off v s = { s with herr := true }) ∧
    (∀ size off v, ¬ DroppedWhileBusy s.params size off →
      hostWrite size off v s = { hostWrite size off v { s with phase := .idle } with phase := .busy op }) ∧
    (∀ size off, DrawnWhileBusy s.params op size off →
      hostRead size off s =
        { s with replies := s.replies ++ [Config.freeWord s.draws], draws := s.draws + 1 }) ∧
    (∀ size off, ¬ DrawnWhileBusy s.params op size off → ¬ (size = 4 ∧ off = 0x10) →
      hostRead size off s = { hostRead size off { s with phase := .idle } with phase := .busy op }) ∧
    (∃ w, hostRead 4 0x10 s = { s with replies := s.replies ++ [w] } ∧ w.getLsbD 0 = true ∧ w.getLsbD 1 = false ∧
      w.getLsbD 3 = false ∧ w.extractLsb' 8 4 = 0 ∧ s.errinfo = { pos := 0, base := 0 } ∧
      (op = .config → w.getLsbD 2 = false ∧ w.extractLsb' 16 2 = 0 ∧ w.extractLsb' 20 3 = 0) ∧
      (op ≠ .config → w.getLsbD 2 = configured s ∧ w.extractLsb' 16 2 = modeCode s.frozen.mode ∧
        w.extractLsb' 20 3 = kField s))

/-- 10_state.md R39, 60_exceptions.md R247, R248, 45_commands.md R209: irq after a completion, and after an illegal CMD
write, is CTRL.IE, whatever the outcome; it rises when IE is set while DONE = 1; it deasserts by clearing DONE, by
clearing IE, and by the issue of a command; while DONE = 0 it is low; no read changes it. -/
def Obligations.IrqFollowsDoneAndEnable : Prop :=
  (∀ (i : Instr) (s t : State), exec i s = .next t → irq t = s.ctrl.ie) ∧
  (∀ (s : State) (v : Word), v.getLsbD 1 = true → irq (hostWrite 4 0x10 v s) = false) ∧
  (∀ (s : State) (v : Word), s.phase = .idle → v.getLsbD 1 = false → irq (hostWrite 4 0x04 v s) = false) ∧
  (∀ (s : State) (i : Instr), s.phase = .idle → irq (hostWrite 4 0x0C (encode i) s) = false) ∧
  (∀ (s : State) (v : Word), s.phase = .idle → s.done = true → v.getLsbD 1 = true →
    irq (hostWrite 4 0x04 v s) = true) ∧
  (∀ (s : State) (v : Word), s.phase = .idle → (∀ i : Instr, v ≠ encode i) →
    irq (hostWrite 4 0x0C v s) = s.ctrl.ie) ∧
  (∀ s : State, s.done = false → irq s = false) ∧
  (∀ (s : State) (size : Nat) (off : Offset), irq (hostRead size off s) = irq s)

/-! ### Reset and the invariant -/

/-- 70_reset_and_hazards.md R260, R261, R264: the state after reset, for every value of the parameters (log 1), with
every RAM byte a free value (log 3). Any later assertion of reset, and its release again, leaves the same; and while
reset is asserted the state keeps those values whatever the host does: a write changes nothing, and a read returns the
stored value without HERR (log 14). Of the frozen contents but FMODE (log 9) nothing is claimed. -/
def Obligations.ResetLeavesAQuietUnconfiguredBlock : Prop :=
  State.reset = State.resetOf Config.params ∧ Config.params.wf = true ∧
  (∀ s : State, ∀ e : HostEvent, e = .assertReset ∨ (e = .releaseReset ∧ s.resetHeld = true) →
    AtReset (hostEvent e s) ∧ ((hostEvent e s).resetHeld = true ↔ e = .assertReset) ∧
    regValue (hostEvent e s) .status = 0 ∧ irq (hostEvent e s) = false ∧
    (hostEvent e s).params = s.params ∧ (hostEvent e s).pending = s.pending ∧ (hostEvent e s).replies = s.replies ∧
    ∀ a, (∃ g, (hostEvent e s).alpha.read a = Config.freeByte g a) ∧
      (∃ g, (hostEvent e s).inp.read a = Config.freeByte g a) ∧
      (∃ g, (hostEvent e s).out.read a = Config.freeByte g a)) ∧
  (∀ s : State, s.resetHeld = true →
    (∀ size off v, hostEvent (.write size off v) s = s) ∧
    (∀ size off, hostEvent (.read size off) s =
      { s with replies := s.replies ++ [targetValue s (target s.params size off)] })) ∧
  (∀ s t : State, s.resetHeld = true → AtReset s → step s = .next t →
    AtReset t ∧ t.params = s.params ∧ (t.resetHeld = false → ∃ rest, s.pending = .releaseReset :: rest)) ∧
  ∀ p : Params,
    AtReset (State.resetOf p) ∧ (State.resetOf p).resetHeld = false ∧
    (State.resetOf p).ctrl = { rfc4648 := false, ie := false } ∧ (State.resetOf p).alen = 0 ∧
    (State.resetOf p).inLen = 0 ∧ (State.resetOf p).outLen = 0 ∧
    (State.resetOf p).errinfo = { pos := 0, base := 0 } ∧
    regValue (State.resetOf p) .id = 0x42580007 ∧ regValue (State.resetOf p) .cmd = 0 ∧
    regValue (State.resetOf p) .status = 0 ∧ regValue (State.resetOf p) .leader = 0 ∧
    regValue (State.resetOf p) .nbase = 0 ∧ regValue (State.resetOf p) .incap = BitVec.ofNat 32 p.inCap ∧
    regValue (State.resetOf p) .outcap = BitVec.ofNat 32 p.outCap ∧
    (State.resetOf p).phase = .idle ∧ (State.resetOf p).frozen.mode = .none ∧ irq (State.resetOf p) = false ∧
    ∀ a, (∃ g, (State.resetOf p).alpha.read a = Config.freeByte g a) ∧
      (∃ g, (State.resetOf p).inp.read a = Config.freeByte g a) ∧
      (∃ g, (State.resetOf p).out.read a = Config.freeByte g a)

/-- 70_reset_and_hazards.md R262, R260: reset asserted while a command runs (or at any other time) abandons it: the
registers, the configuration and the phase are those of reset, no result is written, DONE is 0, and every RAM byte
is a new free value (log 14). -/
def Obligations.ResetAbandonsTheRunningCommand : Prop :=
  ∀ (s : State) (rest : List HostEvent), s.phase = .idle ∨ 0 < s.delay ∨ s.resetHeld = true →
    s.pending = .assertReset :: rest →
    ∃ t, step s = .next t ∧ t.resetHeld = true ∧ t.pending = rest ∧ t.replies = s.replies ∧ t.params = s.params ∧
      t.phase = .idle ∧ t.done = false ∧ t.absent = false ∧ t.herr = false ∧ t.err = .none ∧
      t.errinfo = { pos := 0, base := 0 } ∧ t.ctrl = { rfc4648 := false, ie := false } ∧ t.alen = 0 ∧
      t.inLen = 0 ∧ t.outLen = 0 ∧ t.frozen.mode = .none ∧
      ∀ a, t.alpha.read a = Config.freeByte s.draws a ∧ t.inp.read a = Config.freeByte (s.draws + 1) a ∧
        t.out.read a = Config.freeByte (s.draws + 2) a

/-- The invariant of the machine, 10_state.md R44 among it, holds after reset. -/
def Obligations.InvariantHoldsAfterReset : Prop :=
  State.Inv State.reset ∧ ∀ p : Params, p.wf = true → State.Inv (State.resetOf p)

/-- Every step keeps the invariant: the flags' rules of 10_state.md R44, the canonical form of the RAMs, the agreement
of the frozen alphabet, reverse map, mode and width, and the reset values while reset is asserted. -/
def Obligations.EveryStepKeepsTheInvariant : Prop :=
  ∀ s t : State, State.Inv s → step s = .next t → State.Inv t

/-- From every state that meets the invariant the step answers a next state: no fault, no refusal, whatever the host
does. -/
def Obligations.InvariantStatesNeverStop : Prop :=
  ∀ s : State, State.Inv s → StepSafe s
end

