-- ==== Sys2Proof/Laws/Decode.lean ====
section
/-! SUPPORT. The byte order of a word, and the decoder's entry points over one another. -/

namespace Sys2Proof

/-- The four bytes of a word pack back to it. -/
theorem packBytes_byteOfWord (v : Word) :
    packBytes (byteOfWord v 0) (byteOfWord v 1) (byteOfWord v 2) (byteOfWord v 3) = v := by
  apply BitVec.eq_of_getLsbD_eq
  intro i hi
  simp only [packBytes, byteOfWord, BitVec.getLsbD_append, BitVec.getLsbD_extractLsb']
  by_cases h0 : i < 8
  · simp [h0]
  by_cases h1 : i < 16
  · have : i - 8 < 8 := by omega
    have e : 8 + (i - 8) = i := by omega
    simp [h0, this, e]
  by_cases h2 : i < 24
  · have a : ¬ i - 8 < 8 := by omega
    have b : i - 8 - 8 < 8 := by omega
    have e : 16 + (i - 8 - 8) = i := by omega
    simp [h0, a, b, e]
  · have a : ¬ i - 8 < 8 := by omega
    have b : ¬ i - 8 - 8 < 8 := by omega
    have c : i - 8 - 8 - 8 < 8 := by omega
    have e : 24 + (i - 8 - 8 - 8) = i := by omega
    simp [h0, a, b, c, e]

/-- The four bytes packed into a word are its bytes. -/
theorem byteOfWord_packBytes (b0 b1 b2 b3 : Byte) :
    byteOfWord (packBytes b0 b1 b2 b3) 0 = b0 ∧ byteOfWord (packBytes b0 b1 b2 b3) 1 = b1 ∧
    byteOfWord (packBytes b0 b1 b2 b3) 2 = b2 ∧ byteOfWord (packBytes b0 b1 b2 b3) 3 = b3 := by
  refine ⟨?_, ?_, ?_, ?_⟩ <;>
  · apply BitVec.eq_of_getLsbD_eq
    intro i hi
    simp only [packBytes, byteOfWord, BitVec.getLsbD_append, BitVec.getLsbD_extractLsb']
    have h1 : ¬ 8 + i < 8 := by omega
    have h2 : ¬ 16 + i < 8 := by omega
    have h3 : ¬ 24 + i < 8 := by omega
    have h4 : ¬ 16 + i - 8 < 8 := by omega
    have h5 : ¬ 24 + i - 8 < 8 := by omega
    have h6 : ¬ 24 + i - 8 - 8 < 8 := by omega
    have e1 : 8 + i - 8 = i := by omega
    have e2 : 16 + i - 8 - 8 = i := by omega
    have e3 : 24 + i - 8 - 8 - 8 = i := by omega
    simp [hi, h1, h2, h3, h4, h5, h6, e1, e2, e3]

/-- Decoding the bytes of a word is decoding the word. -/
theorem decodeBytes_byteOfWord (v : Word) : decodeBytes ((List.range 4).map (byteOfWord v)) = decodeWord v := by
  show decodeWord (packBytes _ _ _ _) = _
  rw [packBytes_byteOfWord]

/-- The table's entry point answers what the word decoder answers. -/
theorem decodeTableWord_eq_some_iff (nbits w : Nat) (i : Instr) :
    decodeTableWord nbits w = some i ↔ decodeWord (tableWord nbits w) = .ok i := by
  unfold decodeTableWord
  rw [decodeBytes_byteOfWord]
  cases decodeWord (tableWord nbits w) <;> simp

end Sys2Proof
end

