-- ==== Sys2Proof/Laws/Memory.lean ====
section
/-! SUPPORT. The laws of memory: a read after a write, the canonical form kept by every operation, and equal
contents are equal lists. -/

namespace Sys2Proof.Machine

namespace Memory

@[simp] theorem read_nil (a : Nat) : Memory.read [] a = none := rfl

/-- A read after a write, at the same address and at every other. -/
theorem read_write (m : Memory) (a a' : Nat) (v : Byte) :
    (m.write a v).read a' = if a = a' then some v else m.read a' := by
  induction m with
  | nil => simp [Memory.write, Memory.read]
  | cons x m ih =>
    obtain ⟨k, b⟩ := x
    simp only [Memory.write]
    split
    · simp [Memory.read]
    · split
      · subst a
        by_cases h : k = a' <;> simp [Memory.read, h]
      · by_cases h : k = a'
        · have : a ≠ a' := by omega
          simp [Memory.read, h, this]
        · simp [Memory.read, h, ih]

/-- Every address of a written memory is the written one or one of the old ones. -/
theorem mem_write_fst {m : Memory} {a : Nat} {v : Byte} {x : Host.Cell} (h : x ∈ m.write a v) :
    x.1 = a ∨ ∃ y ∈ m, y.1 = x.1 := by
  induction m with
  | nil => simp [Memory.write] at h; exact .inl (by simp [h])
  | cons y m ih =>
    obtain ⟨k, b⟩ := y
    simp only [Memory.write] at h
    split at h
    · rcases List.mem_cons.1 h with rfl | h
      · exact .inl rfl
      · exact .inr ⟨x, h, rfl⟩
    · split at h
      · rcases List.mem_cons.1 h with rfl | h
        · exact .inl rfl
        · exact .inr ⟨x, List.mem_cons_of_mem _ h, rfl⟩
      · rcases List.mem_cons.1 h with rfl | h
        · exact .inr ⟨(k, b), List.mem_cons_self, rfl⟩
        · rcases ih h with h | ⟨y, hy, e⟩
          · exact .inl h
          · exact .inr ⟨y, List.mem_cons_of_mem _ hy, e⟩

/-- A write keeps the canonical form. -/
theorem wf_write {m : Memory} (h : m.wf) (a : Nat) (v : Byte) : (m.write a v).wf := by
  induction m with
  | nil => simp [Memory.write, Memory.wf]
  | cons x m ih =>
    obtain ⟨k, b⟩ := x
    obtain ⟨hk, hm⟩ := List.pairwise_cons.1 h
    simp only [Memory.write]
    split
    · rename_i hak
      refine List.pairwise_cons.2 ⟨fun y hy => ?_, h⟩
      rcases List.mem_cons.1 hy with rfl | hy
      · exact hak
      · exact Nat.lt_trans hak (hk y hy)
    · split
      · rename_i _ e
        subst e
        exact List.pairwise_cons.2 ⟨hk, hm⟩
      · refine List.pairwise_cons.2 ⟨fun y hy => ?_, ih hm⟩
        rcases mem_write_fst hy with e | ⟨z, hz, e⟩
        · show k < y.1
          omega
        · exact e ▸ hk z hz

/-- A write below `cap` keeps every address below `cap`. -/
theorem below_write {m : Memory} {cap : Nat} (h : m.below cap) {a : Nat} (ha : a < cap) (v : Byte) :
    (m.write a v).below cap := by
  intro x hx
  rcases mem_write_fst hx with e | ⟨y, hy, e⟩
  · exact e ▸ ha
  · exact e ▸ h y hy

/-- A read after a run of writes. -/
theorem read_writeBytes (m : Memory) (a : Nat) (vs : List Byte) (x : Nat) :
    (m.writeBytes a vs).read x = if h : a ≤ x ∧ x < a + vs.length then some (vs[x - a]'(by omega)) else m.read x := by
  induction vs generalizing m a with
  | nil =>
    have : ¬ (a ≤ x ∧ x < a + 0) := by omega
    simp [Memory.writeBytes]
  | cons v vs ih =>
    rw [Memory.writeBytes, ih, read_write]
    by_cases h1 : a + 1 ≤ x ∧ x < a + 1 + vs.length
    · have h2 : a ≤ x ∧ x < a + (v :: vs).length := by simp only [List.length_cons]; omega
      rw [dif_pos h1, dif_pos h2]
      obtain ⟨d, rfl⟩ : ∃ d, x = a + 1 + d := ⟨x - (a + 1), by omega⟩
      have e : a + 1 + d - a = d + 1 := by omega
      simp [e]
    · rw [dif_neg h1]
      by_cases h3 : a = x
      · subst h3
        simp
      · have h2 : ¬ (a ≤ x ∧ x < a + (v :: vs).length) := by simp only [List.length_cons]; omega
        rw [if_neg h3, dif_neg h2]

/-- A run of writes keeps the canonical form. -/
theorem wf_writeBytes {m : Memory} (h : m.wf) (a : Nat) (vs : List Byte) : (m.writeBytes a vs).wf := by
  induction vs generalizing m a with
  | nil => exact h
  | cons v vs ih => exact ih (wf_write h a v) (a + 1)

/-- A run of writes below `cap` keeps every address below `cap`. -/
theorem below_writeBytes {m : Memory} {cap : Nat} (h : m.below cap) {a : Nat} {vs : List Byte}
    (ha : a + vs.length ≤ cap) : (m.writeBytes a vs).below cap := by
  induction vs generalizing m a with
  | nil => exact h
  | cons v vs ih =>
    simp only [List.length_cons] at ha
    exact ih (below_write h (by omega) v) (by omega)

/-- An address below every listed one reads as nothing written. -/
theorem read_eq_none_of_lt {m : Memory} {a : Nat} (h : ∀ x ∈ m, a < x.1) : m.read a = none := by
  induction m with
  | nil => rfl
  | cons x m ih =>
    obtain ⟨k, b⟩ := x
    have hk : a < k := h (k, b) List.mem_cons_self
    have : k ≠ a := by omega
    simp [Memory.read, this, ih fun y hy => h y (List.mem_cons_of_mem _ hy)]

/-- In canonical form, memories that read alike are equal. -/
theorem ext_of_wf {m m' : Memory} (h : m.wf) (h' : m'.wf) (e : ∀ a, m.read a = m'.read a) : m = m' := by
  induction m generalizing m' with
  | nil =>
    cases m' with
    | nil => rfl
    | cons y m' => have := e y.1; simp [Memory.read] at this
  | cons x m ih =>
    obtain ⟨k, b⟩ := x
    obtain ⟨hk, hm⟩ := List.pairwise_cons.1 h
    cases m' with
    | nil => have := e k; simp [Memory.read] at this
    | cons y m' =>
      obtain ⟨k', b'⟩ := y
      obtain ⟨hk', hm'⟩ := List.pairwise_cons.1 h'
      have e1 := e k
      have e2 := e k'
      have hkk : k = k' := by
        rcases Nat.lt_trichotomy k k' with hlt | heq | hgt
        · have : Memory.read ((k', b') :: m') k = none := read_eq_none_of_lt fun z hz => by
            rcases List.mem_cons.1 hz with rfl | hz
            · exact hlt
            · exact Nat.lt_trans hlt (hk' z hz)
          rw [this] at e1
          simp [Memory.read] at e1
        · exact heq
        · have : Memory.read ((k, b) :: m) k' = none := read_eq_none_of_lt fun z hz => by
            rcases List.mem_cons.1 hz with rfl | hz
            · exact hgt
            · exact Nat.lt_trans hgt (hk z hz)
          rw [this] at e2
          simp [Memory.read] at e2
      subst hkk
      have hb : b = b' := by simpa [Memory.read] using e1
      subst hb
      have : m = m' := ih hm hm' fun a => by
        by_cases ha : k = a
        · subst ha
          rw [read_eq_none_of_lt hk, read_eq_none_of_lt hk']
        · simpa [Memory.read, ha] using e a
      rw [this]

end Memory

namespace Ram

@[simp] theorem write_gen (r : Ram) (a : Nat) (v : Byte) : (r.write a v).gen = r.gen := rfl
@[simp] theorem writeBytes_gen (r : Ram) (a : Nat) (vs : List Byte) : (r.writeBytes a vs).gen = r.gen := rfl
@[simp] theorem writeBytes_cells (r : Ram) (a : Nat) (vs : List Byte) :
    (r.writeBytes a vs).cells = r.cells.writeBytes a vs := rfl
@[simp] theorem writeWord_gen (r : Ram) (b : Nat) (v : Word) : (r.writeWord b v).gen = r.gen := rfl
@[simp] theorem unspecified_gen (g : Nat) : (Ram.unspecified g).gen = g := rfl
@[simp] theorem unspecified_cells (g : Nat) : (Ram.unspecified g).cells = [] := rfl

/-- Every byte of an unspecified RAM is a free value of its generation. -/
@[simp] theorem read_unspecified (g a : Nat) : (Ram.unspecified g).read a = Config.freeByte g a := rfl

/-- A RAM read after a run of writes. -/
theorem read_writeBytes (r : Ram) (a : Nat) (vs : List Byte) (x : Nat) :
    (r.writeBytes a vs).read x = if h : a ≤ x ∧ x < a + vs.length then vs[x - a]'(by omega) else r.read x := by
  unfold Ram.read
  rw [writeBytes_cells, Memory.read_writeBytes]
  by_cases h : a ≤ x ∧ x < a + vs.length
  · simp [h]
  · simp [h]

/-- A RAM read after a host word is written: its four bytes, and every other byte as before. -/
theorem read_writeWord (r : Ram) (b : Nat) (v : Word) (x : Nat) :
    (r.writeWord b v).read x = if b ≤ x ∧ x < b + 4 then byteOfWord v (x - b) else r.read x := by
  rw [Ram.writeWord, read_writeBytes]
  by_cases h : b ≤ x ∧ x < b + 4 <;> simp [h]

@[simp] theorem take_length (r : Ram) (n : Nat) : (r.take n).length = n := by simp [Ram.take]

@[simp] theorem take_getElem (r : Ram) (n i : Nat) (h : i < (r.take n).length) : (r.take n)[i] = r.read i := by
  simp [Ram.take]

/-- Two RAMs that agree below `n` have the same first `n` bytes. -/
theorem take_congr {r r' : Ram} {n : Nat} (h : ∀ a < n, r.read a = r'.read a) : r.take n = r'.take n := by
  simp only [Ram.take]
  exact List.map_congr_left fun a ha => h a (List.mem_range.1 ha)

end Ram

end Sys2Proof.Machine
end

