-- ==== Sys2Proof/Laws/State.lean ====
section
/-! SUPPORT. What each named update of State leaves in each field, one lemma per field, so that no later proof
unfolds a record update. -/

namespace Sys2Proof.Machine

variable (s : State)

/-! ### clearAtIssue -/

@[simp] theorem clearAtIssue_params : (clearAtIssue s).params = s.params := rfl
@[simp] theorem clearAtIssue_ctrl : (clearAtIssue s).ctrl = s.ctrl := rfl
@[simp] theorem clearAtIssue_alen : (clearAtIssue s).alen = s.alen := rfl
@[simp] theorem clearAtIssue_inLen : (clearAtIssue s).inLen = s.inLen := rfl
@[simp] theorem clearAtIssue_outLen : (clearAtIssue s).outLen = s.outLen := rfl
@[simp] theorem clearAtIssue_done : (clearAtIssue s).done = false := rfl
@[simp] theorem clearAtIssue_absent : (clearAtIssue s).absent = false := rfl
@[simp] theorem clearAtIssue_herr : (clearAtIssue s).herr = s.herr := rfl
@[simp] theorem clearAtIssue_err : (clearAtIssue s).err = .none := rfl
@[simp] theorem clearAtIssue_errinfo : (clearAtIssue s).errinfo = { pos := 0, base := 0 } := rfl
@[simp] theorem clearAtIssue_alpha : (clearAtIssue s).alpha = s.alpha := rfl
@[simp] theorem clearAtIssue_inp : (clearAtIssue s).inp = s.inp := rfl
@[simp] theorem clearAtIssue_out : (clearAtIssue s).out = s.out := rfl
@[simp] theorem clearAtIssue_frozen : (clearAtIssue s).frozen = s.frozen := rfl
@[simp] theorem clearAtIssue_phase : (clearAtIssue s).phase = s.phase := rfl
@[simp] theorem clearAtIssue_resetHeld : (clearAtIssue s).resetHeld = s.resetHeld := rfl
@[simp] theorem clearAtIssue_delay : (clearAtIssue s).delay = s.delay := rfl
@[simp] theorem clearAtIssue_draws : (clearAtIssue s).draws = s.draws := rfl
@[simp] theorem clearAtIssue_pending : (clearAtIssue s).pending = s.pending := rfl
@[simp] theorem clearAtIssue_replies : (clearAtIssue s).replies = s.replies := rfl

/-! ### startCommand -/

@[simp] theorem startCommand_params (op : Instr) (w : Nat) : (startCommand op w s).params = s.params := rfl
@[simp] theorem startCommand_ctrl (op : Instr) (w : Nat) : (startCommand op w s).ctrl = s.ctrl := rfl
@[simp] theorem startCommand_alen (op : Instr) (w : Nat) : (startCommand op w s).alen = s.alen := rfl
@[simp] theorem startCommand_inLen (op : Instr) (w : Nat) : (startCommand op w s).inLen = s.inLen := rfl
@[simp] theorem startCommand_outLen (op : Instr) (w : Nat) : (startCommand op w s).outLen = s.outLen := rfl
@[simp] theorem startCommand_done (op : Instr) (w : Nat) : (startCommand op w s).done = false := rfl
@[simp] theorem startCommand_absent (op : Instr) (w : Nat) : (startCommand op w s).absent = false := rfl
@[simp] theorem startCommand_herr (op : Instr) (w : Nat) : (startCommand op w s).herr = s.herr := rfl
@[simp] theorem startCommand_err (op : Instr) (w : Nat) : (startCommand op w s).err = .none := rfl
@[simp] theorem startCommand_errinfo (op : Instr) (w : Nat) : (startCommand op w s).errinfo = { pos := 0, base := 0 } := rfl
@[simp] theorem startCommand_alpha (op : Instr) (w : Nat) : (startCommand op w s).alpha = s.alpha := rfl
@[simp] theorem startCommand_inp (op : Instr) (w : Nat) : (startCommand op w s).inp = s.inp := rfl
@[simp] theorem startCommand_out (op : Instr) (w : Nat) : (startCommand op w s).out = s.out := rfl
@[simp] theorem startCommand_frozen (op : Instr) (w : Nat) : (startCommand op w s).frozen = frozenAtIssue op s.frozen := rfl
@[simp] theorem startCommand_phase (op : Instr) (w : Nat) : (startCommand op w s).phase = .busy op := rfl
@[simp] theorem startCommand_resetHeld (op : Instr) (w : Nat) : (startCommand op w s).resetHeld = s.resetHeld := rfl
@[simp] theorem startCommand_delay (op : Instr) (w : Nat) : (startCommand op w s).delay = w := rfl
@[simp] theorem startCommand_draws (op : Instr) (w : Nat) : (startCommand op w s).draws = s.draws := rfl
@[simp] theorem startCommand_pending (op : Instr) (w : Nat) : (startCommand op w s).pending = s.pending := rfl
@[simp] theorem startCommand_replies (op : Instr) (w : Nat) : (startCommand op w s).replies = s.replies := rfl

/-! ### recordIllegal -/

@[simp] theorem recordIllegal_params : (recordIllegal s).params = s.params := rfl
@[simp] theorem recordIllegal_ctrl : (recordIllegal s).ctrl = s.ctrl := rfl
@[simp] theorem recordIllegal_alen : (recordIllegal s).alen = s.alen := rfl
@[simp] theorem recordIllegal_inLen : (recordIllegal s).inLen = s.inLen := rfl
@[simp] theorem recordIllegal_outLen : (recordIllegal s).outLen = s.outLen := rfl
@[simp] theorem recordIllegal_done : (recordIllegal s).done = true := rfl
@[simp] theorem recordIllegal_absent : (recordIllegal s).absent = false := rfl
@[simp] theorem recordIllegal_herr : (recordIllegal s).herr = s.herr := rfl
@[simp] theorem recordIllegal_err : (recordIllegal s).err = .illegalCommand := rfl
@[simp] theorem recordIllegal_errinfo : (recordIllegal s).errinfo = { pos := 0, base := 0 } := rfl
@[simp] theorem recordIllegal_alpha : (recordIllegal s).alpha = s.alpha := rfl
@[simp] theorem recordIllegal_inp : (recordIllegal s).inp = s.inp := rfl
@[simp] theorem recordIllegal_out : (recordIllegal s).out = s.out := rfl
@[simp] theorem recordIllegal_frozen : (recordIllegal s).frozen = s.frozen := rfl
@[simp] theorem recordIllegal_phase : (recordIllegal s).phase = s.phase := rfl
@[simp] theorem recordIllegal_resetHeld : (recordIllegal s).resetHeld = s.resetHeld := rfl
@[simp] theorem recordIllegal_delay : (recordIllegal s).delay = s.delay := rfl
@[simp] theorem recordIllegal_draws : (recordIllegal s).draws = s.draws := rfl
@[simp] theorem recordIllegal_pending : (recordIllegal s).pending = s.pending := rfl
@[simp] theorem recordIllegal_replies : (recordIllegal s).replies = s.replies := rfl

/-! ### finish -/

@[simp] theorem finish_params : (finish s).params = s.params := rfl
@[simp] theorem finish_ctrl : (finish s).ctrl = s.ctrl := rfl
@[simp] theorem finish_alen : (finish s).alen = s.alen := rfl
@[simp] theorem finish_inLen : (finish s).inLen = s.inLen := rfl
@[simp] theorem finish_outLen : (finish s).outLen = s.outLen := rfl
@[simp] theorem finish_done : (finish s).done = true := rfl
@[simp] theorem finish_absent : (finish s).absent = s.absent := rfl
@[simp] theorem finish_herr : (finish s).herr = s.herr := rfl
@[simp] theorem finish_err : (finish s).err = s.err := rfl
@[simp] theorem finish_errinfo : (finish s).errinfo = s.errinfo := rfl
@[simp] theorem finish_alpha : (finish s).alpha = s.alpha := rfl
@[simp] theorem finish_inp : (finish s).inp = s.inp := rfl
@[simp] theorem finish_out : (finish s).out = s.out := rfl
@[simp] theorem finish_frozen : (finish s).frozen = s.frozen := rfl
@[simp] theorem finish_phase : (finish s).phase = .idle := rfl
@[simp] theorem finish_resetHeld : (finish s).resetHeld = s.resetHeld := rfl
@[simp] theorem finish_delay : (finish s).delay = s.delay := rfl
@[simp] theorem finish_draws : (finish s).draws = s.draws := rfl
@[simp] theorem finish_pending : (finish s).pending = s.pending := rfl
@[simp] theorem finish_replies : (finish s).replies = s.replies := rfl

/-! ### dropOutput -/

@[simp] theorem dropOutput_params : (dropOutput s).params = s.params := rfl
@[simp] theorem dropOutput_ctrl : (dropOutput s).ctrl = s.ctrl := rfl
@[simp] theorem dropOutput_alen : (dropOutput s).alen = s.alen := rfl
@[simp] theorem dropOutput_inLen : (dropOutput s).inLen = s.inLen := rfl
@[simp] theorem dropOutput_outLen : (dropOutput s).outLen = 0 := rfl
@[simp] theorem dropOutput_done : (dropOutput s).done = s.done := rfl
@[simp] theorem dropOutput_absent : (dropOutput s).absent = s.absent := rfl
@[simp] theorem dropOutput_herr : (dropOutput s).herr = s.herr := rfl
@[simp] theorem dropOutput_err : (dropOutput s).err = s.err := rfl
@[simp] theorem dropOutput_errinfo : (dropOutput s).errinfo = s.errinfo := rfl
@[simp] theorem dropOutput_alpha : (dropOutput s).alpha = s.alpha := rfl
@[simp] theorem dropOutput_inp : (dropOutput s).inp = s.inp := rfl
@[simp] theorem dropOutput_out : (dropOutput s).out = Ram.unspecified s.draws := rfl
@[simp] theorem dropOutput_frozen : (dropOutput s).frozen = s.frozen := rfl
@[simp] theorem dropOutput_phase : (dropOutput s).phase = s.phase := rfl
@[simp] theorem dropOutput_resetHeld : (dropOutput s).resetHeld = s.resetHeld := rfl
@[simp] theorem dropOutput_delay : (dropOutput s).delay = s.delay := rfl
@[simp] theorem dropOutput_draws : (dropOutput s).draws = s.draws + 1 := rfl
@[simp] theorem dropOutput_pending : (dropOutput s).pending = s.pending := rfl
@[simp] theorem dropOutput_replies : (dropOutput s).replies = s.replies := rfl

/-! ### recordError -/

@[simp] theorem recordError_params (e : Raise) : (recordError e s).params = s.params := rfl
@[simp] theorem recordError_ctrl (e : Raise) : (recordError e s).ctrl = s.ctrl := rfl
@[simp] theorem recordError_alen (e : Raise) : (recordError e s).alen = s.alen := rfl
@[simp] theorem recordError_inLen (e : Raise) : (recordError e s).inLen = s.inLen := rfl
@[simp] theorem recordError_outLen (e : Raise) : (recordError e s).outLen = s.outLen := rfl
@[simp] theorem recordError_done (e : Raise) : (recordError e s).done = s.done := rfl
@[simp] theorem recordError_absent (e : Raise) : (recordError e s).absent = false := rfl
@[simp] theorem recordError_herr (e : Raise) : (recordError e s).herr = s.herr := rfl
@[simp] theorem recordError_err (e : Raise) : (recordError e s).err = e.code := rfl
@[simp] theorem recordError_errinfo (e : Raise) : (recordError e s).errinfo = { pos := BitVec.ofNat 16 e.pos, base := BitVec.ofNat 8 e.base } := rfl
@[simp] theorem recordError_alpha (e : Raise) : (recordError e s).alpha = s.alpha := rfl
@[simp] theorem recordError_inp (e : Raise) : (recordError e s).inp = s.inp := rfl
@[simp] theorem recordError_out (e : Raise) : (recordError e s).out = s.out := rfl
@[simp] theorem recordError_frozen (e : Raise) : (recordError e s).frozen = s.frozen := rfl
@[simp] theorem recordError_phase (e : Raise) : (recordError e s).phase = s.phase := rfl
@[simp] theorem recordError_resetHeld (e : Raise) : (recordError e s).resetHeld = s.resetHeld := rfl
@[simp] theorem recordError_delay (e : Raise) : (recordError e s).delay = s.delay := rfl
@[simp] theorem recordError_draws (e : Raise) : (recordError e s).draws = s.draws := rfl
@[simp] theorem recordError_pending (e : Raise) : (recordError e s).pending = s.pending := rfl
@[simp] theorem recordError_replies (e : Raise) : (recordError e s).replies = s.replies := rfl

/-! ### deliver -/

@[simp] theorem deliver_params (r : List Byte) : (deliver r s).params = s.params := rfl
@[simp] theorem deliver_ctrl (r : List Byte) : (deliver r s).ctrl = s.ctrl := rfl
@[simp] theorem deliver_alen (r : List Byte) : (deliver r s).alen = s.alen := rfl
@[simp] theorem deliver_inLen (r : List Byte) : (deliver r s).inLen = s.inLen := rfl
@[simp] theorem deliver_outLen (r : List Byte) : (deliver r s).outLen = BitVec.ofNat 32 r.length := rfl
@[simp] theorem deliver_done (r : List Byte) : (deliver r s).done = true := rfl
@[simp] theorem deliver_absent (r : List Byte) : (deliver r s).absent = false := rfl
@[simp] theorem deliver_herr (r : List Byte) : (deliver r s).herr = s.herr := rfl
@[simp] theorem deliver_err (r : List Byte) : (deliver r s).err = .none := rfl
@[simp] theorem deliver_errinfo (r : List Byte) : (deliver r s).errinfo = s.errinfo := rfl
@[simp] theorem deliver_alpha (r : List Byte) : (deliver r s).alpha = s.alpha := rfl
@[simp] theorem deliver_inp (r : List Byte) : (deliver r s).inp = s.inp := rfl
@[simp] theorem deliver_out (r : List Byte) : (deliver r s).out = (Ram.unspecified s.draws).writeBytes 0 r := rfl
@[simp] theorem deliver_frozen (r : List Byte) : (deliver r s).frozen = s.frozen := rfl
@[simp] theorem deliver_phase (r : List Byte) : (deliver r s).phase = .idle := rfl
@[simp] theorem deliver_resetHeld (r : List Byte) : (deliver r s).resetHeld = s.resetHeld := rfl
@[simp] theorem deliver_delay (r : List Byte) : (deliver r s).delay = s.delay := rfl
@[simp] theorem deliver_draws (r : List Byte) : (deliver r s).draws = s.draws + 1 := rfl
@[simp] theorem deliver_pending (r : List Byte) : (deliver r s).pending = s.pending := rfl
@[simp] theorem deliver_replies (r : List Byte) : (deliver r s).replies = s.replies := rfl

/-! ### reportAbsent -/

@[simp] theorem reportAbsent_params (i : Nat) : (reportAbsent i s).params = s.params := rfl
@[simp] theorem reportAbsent_ctrl (i : Nat) : (reportAbsent i s).ctrl = s.ctrl := rfl
@[simp] theorem reportAbsent_alen (i : Nat) : (reportAbsent i s).alen = s.alen := rfl
@[simp] theorem reportAbsent_inLen (i : Nat) : (reportAbsent i s).inLen = s.inLen := rfl
@[simp] theorem reportAbsent_outLen (i : Nat) : (reportAbsent i s).outLen = 0 := rfl
@[simp] theorem reportAbsent_done (i : Nat) : (reportAbsent i s).done = true := rfl
@[simp] theorem reportAbsent_absent (i : Nat) : (reportAbsent i s).absent = true := rfl
@[simp] theorem reportAbsent_herr (i : Nat) : (reportAbsent i s).herr = s.herr := rfl
@[simp] theorem reportAbsent_err (i : Nat) : (reportAbsent i s).err = .none := rfl
@[simp] theorem reportAbsent_errinfo (i : Nat) : (reportAbsent i s).errinfo = { pos := BitVec.ofNat 16 i, base := BitVec.ofNat 8 s.frozen.fn } := rfl
@[simp] theorem reportAbsent_alpha (i : Nat) : (reportAbsent i s).alpha = s.alpha := rfl
@[simp] theorem reportAbsent_inp (i : Nat) : (reportAbsent i s).inp = s.inp := rfl
@[simp] theorem reportAbsent_out (i : Nat) : (reportAbsent i s).out = Ram.unspecified s.draws := rfl
@[simp] theorem reportAbsent_frozen (i : Nat) : (reportAbsent i s).frozen = s.frozen := rfl
@[simp] theorem reportAbsent_phase (i : Nat) : (reportAbsent i s).phase = .idle := rfl
@[simp] theorem reportAbsent_resetHeld (i : Nat) : (reportAbsent i s).resetHeld = s.resetHeld := rfl
@[simp] theorem reportAbsent_delay (i : Nat) : (reportAbsent i s).delay = s.delay := rfl
@[simp] theorem reportAbsent_draws (i : Nat) : (reportAbsent i s).draws = s.draws + 1 := rfl
@[simp] theorem reportAbsent_pending (i : Nat) : (reportAbsent i s).pending = s.pending := rfl
@[simp] theorem reportAbsent_replies (i : Nat) : (reportAbsent i s).replies = s.replies := rfl

/-! ### commitConfig -/

@[simp] theorem commitConfig_params (f : Frozen) : (commitConfig f s).params = s.params := rfl
@[simp] theorem commitConfig_ctrl (f : Frozen) : (commitConfig f s).ctrl = s.ctrl := rfl
@[simp] theorem commitConfig_alen (f : Frozen) : (commitConfig f s).alen = s.alen := rfl
@[simp] theorem commitConfig_inLen (f : Frozen) : (commitConfig f s).inLen = s.inLen := rfl
@[simp] theorem commitConfig_outLen (f : Frozen) : (commitConfig f s).outLen = s.outLen := rfl
@[simp] theorem commitConfig_done (f : Frozen) : (commitConfig f s).done = true := rfl
@[simp] theorem commitConfig_absent (f : Frozen) : (commitConfig f s).absent = false := rfl
@[simp] theorem commitConfig_herr (f : Frozen) : (commitConfig f s).herr = s.herr := rfl
@[simp] theorem commitConfig_err (f : Frozen) : (commitConfig f s).err = .none := rfl
@[simp] theorem commitConfig_errinfo (f : Frozen) : (commitConfig f s).errinfo = s.errinfo := rfl
@[simp] theorem commitConfig_alpha (f : Frozen) : (commitConfig f s).alpha = s.alpha := rfl
@[simp] theorem commitConfig_inp (f : Frozen) : (commitConfig f s).inp = s.inp := rfl
@[simp] theorem commitConfig_out (f : Frozen) : (commitConfig f s).out = s.out := rfl
@[simp] theorem commitConfig_frozen (f : Frozen) : (commitConfig f s).frozen = f := rfl
@[simp] theorem commitConfig_phase (f : Frozen) : (commitConfig f s).phase = .idle := rfl
@[simp] theorem commitConfig_resetHeld (f : Frozen) : (commitConfig f s).resetHeld = s.resetHeld := rfl
@[simp] theorem commitConfig_delay (f : Frozen) : (commitConfig f s).delay = s.delay := rfl
@[simp] theorem commitConfig_draws (f : Frozen) : (commitConfig f s).draws = s.draws := rfl
@[simp] theorem commitConfig_pending (f : Frozen) : (commitConfig f s).pending = s.pending := rfl
@[simp] theorem commitConfig_replies (f : Frozen) : (commitConfig f s).replies = s.replies := rfl

/-! ### setHerr -/

@[simp] theorem setHerr_params : (setHerr s).params = s.params := rfl
@[simp] theorem setHerr_ctrl : (setHerr s).ctrl = s.ctrl := rfl
@[simp] theorem setHerr_alen : (setHerr s).alen = s.alen := rfl
@[simp] theorem setHerr_inLen : (setHerr s).inLen = s.inLen := rfl
@[simp] theorem setHerr_outLen : (setHerr s).outLen = s.outLen := rfl
@[simp] theorem setHerr_done : (setHerr s).done = s.done := rfl
@[simp] theorem setHerr_absent : (setHerr s).absent = s.absent := rfl
@[simp] theorem setHerr_herr : (setHerr s).herr = true := rfl
@[simp] theorem setHerr_err : (setHerr s).err = s.err := rfl
@[simp] theorem setHerr_errinfo : (setHerr s).errinfo = s.errinfo := rfl
@[simp] theorem setHerr_alpha : (setHerr s).alpha = s.alpha := rfl
@[simp] theorem setHerr_inp : (setHerr s).inp = s.inp := rfl
@[simp] theorem setHerr_out : (setHerr s).out = s.out := rfl
@[simp] theorem setHerr_frozen : (setHerr s).frozen = s.frozen := rfl
@[simp] theorem setHerr_phase : (setHerr s).phase = s.phase := rfl
@[simp] theorem setHerr_resetHeld : (setHerr s).resetHeld = s.resetHeld := rfl
@[simp] theorem setHerr_delay : (setHerr s).delay = s.delay := rfl
@[simp] theorem setHerr_draws : (setHerr s).draws = s.draws := rfl
@[simp] theorem setHerr_pending : (setHerr s).pending = s.pending := rfl
@[simp] theorem setHerr_replies : (setHerr s).replies = s.replies := rfl

/-! ### reply -/

@[simp] theorem reply_params (v : Word) : (reply v s).params = s.params := rfl
@[simp] theorem reply_ctrl (v : Word) : (reply v s).ctrl = s.ctrl := rfl
@[simp] theorem reply_alen (v : Word) : (reply v s).alen = s.alen := rfl
@[simp] theorem reply_inLen (v : Word) : (reply v s).inLen = s.inLen := rfl
@[simp] theorem reply_outLen (v : Word) : (reply v s).outLen = s.outLen := rfl
@[simp] theorem reply_done (v : Word) : (reply v s).done = s.done := rfl
@[simp] theorem reply_absent (v : Word) : (reply v s).absent = s.absent := rfl
@[simp] theorem reply_herr (v : Word) : (reply v s).herr = s.herr := rfl
@[simp] theorem reply_err (v : Word) : (reply v s).err = s.err := rfl
@[simp] theorem reply_errinfo (v : Word) : (reply v s).errinfo = s.errinfo := rfl
@[simp] theorem reply_alpha (v : Word) : (reply v s).alpha = s.alpha := rfl
@[simp] theorem reply_inp (v : Word) : (reply v s).inp = s.inp := rfl
@[simp] theorem reply_out (v : Word) : (reply v s).out = s.out := rfl
@[simp] theorem reply_frozen (v : Word) : (reply v s).frozen = s.frozen := rfl
@[simp] theorem reply_phase (v : Word) : (reply v s).phase = s.phase := rfl
@[simp] theorem reply_resetHeld (v : Word) : (reply v s).resetHeld = s.resetHeld := rfl
@[simp] theorem reply_delay (v : Word) : (reply v s).delay = s.delay := rfl
@[simp] theorem reply_draws (v : Word) : (reply v s).draws = s.draws := rfl
@[simp] theorem reply_pending (v : Word) : (reply v s).pending = s.pending := rfl
@[simp] theorem reply_replies (v : Word) : (reply v s).replies = s.replies ++ [v] := rfl

/-! ### writeStatus -/

@[simp] theorem writeStatus_params (v : Word) : (writeStatus v s).params = s.params := rfl
@[simp] theorem writeStatus_ctrl (v : Word) : (writeStatus v s).ctrl = s.ctrl := rfl
@[simp] theorem writeStatus_alen (v : Word) : (writeStatus v s).alen = s.alen := rfl
@[simp] theorem writeStatus_inLen (v : Word) : (writeStatus v s).inLen = s.inLen := rfl
@[simp] theorem writeStatus_outLen (v : Word) : (writeStatus v s).outLen = s.outLen := rfl
@[simp] theorem writeStatus_done (v : Word) : (writeStatus v s).done = (s.done && !v.getLsbD 1) := rfl
@[simp] theorem writeStatus_absent (v : Word) : (writeStatus v s).absent = s.absent := rfl
@[simp] theorem writeStatus_herr (v : Word) : (writeStatus v s).herr = (s.herr && !v.getLsbD 4) := rfl
@[simp] theorem writeStatus_err (v : Word) : (writeStatus v s).err = s.err := rfl
@[simp] theorem writeStatus_errinfo (v : Word) : (writeStatus v s).errinfo = s.errinfo := rfl
@[simp] theorem writeStatus_alpha (v : Word) : (writeStatus v s).alpha = s.alpha := rfl
@[simp] theorem writeStatus_inp (v : Word) : (writeStatus v s).inp = s.inp := rfl
@[simp] theorem writeStatus_out (v : Word) : (writeStatus v s).out = s.out := rfl
@[simp] theorem writeStatus_frozen (v : Word) : (writeStatus v s).frozen = s.frozen := rfl
@[simp] theorem writeStatus_phase (v : Word) : (writeStatus v s).phase = s.phase := rfl
@[simp] theorem writeStatus_resetHeld (v : Word) : (writeStatus v s).resetHeld = s.resetHeld := rfl
@[simp] theorem writeStatus_delay (v : Word) : (writeStatus v s).delay = s.delay := rfl
@[simp] theorem writeStatus_draws (v : Word) : (writeStatus v s).draws = s.draws := rfl
@[simp] theorem writeStatus_pending (v : Word) : (writeStatus v s).pending = s.pending := rfl
@[simp] theorem writeStatus_replies (v : Word) : (writeStatus v s).replies = s.replies := rfl

/-! ### hardReset -/

@[simp] theorem hardReset_params (h : Bool) : (hardReset h s).params = s.params := rfl
@[simp] theorem hardReset_ctrl (h : Bool) : (hardReset h s).ctrl = { rfc4648 := false, ie := false } := rfl
@[simp] theorem hardReset_alen (h : Bool) : (hardReset h s).alen = 0 := rfl
@[simp] theorem hardReset_inLen (h : Bool) : (hardReset h s).inLen = 0 := rfl
@[simp] theorem hardReset_outLen (h : Bool) : (hardReset h s).outLen = 0 := rfl
@[simp] theorem hardReset_done (h : Bool) : (hardReset h s).done = false := rfl
@[simp] theorem hardReset_absent (h : Bool) : (hardReset h s).absent = false := rfl
@[simp] theorem hardReset_herr (h : Bool) : (hardReset h s).herr = false := rfl
@[simp] theorem hardReset_err (h : Bool) : (hardReset h s).err = .none := rfl
@[simp] theorem hardReset_errinfo (h : Bool) : (hardReset h s).errinfo = { pos := 0, base := 0 } := rfl
@[simp] theorem hardReset_alpha (h : Bool) : (hardReset h s).alpha = Ram.unspecified s.draws := rfl
@[simp] theorem hardReset_inp (h : Bool) : (hardReset h s).inp = Ram.unspecified (s.draws + 1) := rfl
@[simp] theorem hardReset_out (h : Bool) : (hardReset h s).out = Ram.unspecified (s.draws + 2) := rfl
@[simp] theorem hardReset_frozen (h : Bool) : (hardReset h s).frozen = Frozen.reset := rfl
@[simp] theorem hardReset_phase (h : Bool) : (hardReset h s).phase = .idle := rfl
@[simp] theorem hardReset_resetHeld (h : Bool) : (hardReset h s).resetHeld = h := rfl
@[simp] theorem hardReset_delay (h : Bool) : (hardReset h s).delay = 0 := rfl
@[simp] theorem hardReset_draws (h : Bool) : (hardReset h s).draws = s.draws + 3 := rfl
@[simp] theorem hardReset_pending (h : Bool) : (hardReset h s).pending = s.pending := rfl
@[simp] theorem hardReset_replies (h : Bool) : (hardReset h s).replies = s.replies := rfl

/-! ### raiseError -/

@[simp] theorem raiseError_params (op : Instr) (e : Raise) : (raiseError op e s).params = s.params := by cases op <;> rfl
@[simp] theorem raiseError_ctrl (op : Instr) (e : Raise) : (raiseError op e s).ctrl = s.ctrl := by cases op <;> rfl
@[simp] theorem raiseError_alen (op : Instr) (e : Raise) : (raiseError op e s).alen = s.alen := by cases op <;> rfl
@[simp] theorem raiseError_inLen (op : Instr) (e : Raise) : (raiseError op e s).inLen = s.inLen := by cases op <;> rfl
@[simp] theorem raiseError_done (op : Instr) (e : Raise) : (raiseError op e s).done = true := by cases op <;> rfl
@[simp] theorem raiseError_absent (op : Instr) (e : Raise) : (raiseError op e s).absent = false := by cases op <;> rfl
@[simp] theorem raiseError_herr (op : Instr) (e : Raise) : (raiseError op e s).herr = s.herr := by cases op <;> rfl
@[simp] theorem raiseError_err (op : Instr) (e : Raise) : (raiseError op e s).err = e.code := by cases op <;> rfl
@[simp] theorem raiseError_errinfo (op : Instr) (e : Raise) : (raiseError op e s).errinfo = { pos := BitVec.ofNat 16 e.pos, base := BitVec.ofNat 8 e.base } := by cases op <;> rfl
@[simp] theorem raiseError_alpha (op : Instr) (e : Raise) : (raiseError op e s).alpha = s.alpha := by cases op <;> rfl
@[simp] theorem raiseError_inp (op : Instr) (e : Raise) : (raiseError op e s).inp = s.inp := by cases op <;> rfl
@[simp] theorem raiseError_phase (op : Instr) (e : Raise) : (raiseError op e s).phase = .idle := by cases op <;> rfl
@[simp] theorem raiseError_resetHeld (op : Instr) (e : Raise) : (raiseError op e s).resetHeld = s.resetHeld := by cases op <;> rfl
@[simp] theorem raiseError_delay (op : Instr) (e : Raise) : (raiseError op e s).delay = s.delay := by cases op <;> rfl
@[simp] theorem raiseError_pending (op : Instr) (e : Raise) : (raiseError op e s).pending = s.pending := by cases op <;> rfl
@[simp] theorem raiseError_replies (op : Instr) (e : Raise) : (raiseError op e s).replies = s.replies := by cases op <;> rfl

end Sys2Proof.Machine
end

