-- ==== Sys2Proof/Laws/Ops.lean ====
section
/-! SUPPORT. For each shared operation, once, everything it can do. -/

namespace Sys2Proof.Machine

/-- The decoder's two answers. -/
theorem issue_cases (v : Word) (s : State) :
    ((∃ r, decodeWord v = .error r) ∧ issue v s = recordIllegal s) ∨
    ∃ op, decodeWord v = .ok op ∧
      issue v s = { startCommand op (Config.completionDelay s.draws) s with draws := s.draws + 1 } := by
  unfold issue
  cases h : decodeWord v with
  | error r => exact .inl ⟨⟨r, rfl⟩, rfl⟩
  | ok op => exact .inr ⟨op, rfl, rfl⟩

/-- The same with the engine moving next. -/
theorem loadCommand_cases (v : Word) (s : State) :
    ((∃ r, decodeWord v = .error r) ∧ loadCommand v s = recordIllegal { s with phase := .idle, resetHeld := false }) ∨
    ∃ op, decodeWord v = .ok op ∧ loadCommand v s = startCommand op 0 { s with resetHeld := false } := by
  unfold loadCommand
  cases h : decodeWord v with
  | error r => exact .inl ⟨⟨r, rfl⟩, rfl⟩
  | ok op => exact .inr ⟨op, rfl, rfl⟩

@[simp] theorem frozenAtIssue_of_ne {op : Instr} (h : op ≠ .config) (f : Frozen) : frozenAtIssue op f = f := by
  cases op <;> first | exact absurd rfl h | rfl

/-- An error of a data command drops the output. -/
theorem raiseError_data {op : Instr} (h : op ≠ .config) (e : Raise) (s : State) :
    raiseError op e s = finish (dropOutput (recordError e s)) := by
  cases op <;> first | exact absurd rfl h | rfl

/-- An error of CONFIG leaves no configuration in force. -/
theorem raiseError_config (e : Raise) (s : State) :
    raiseError .config e s =
      finish { recordError e s with frozen := { s.frozen with mode := .none } } := rfl

/-- Output either refuses the whole result or delivers it whole. -/
theorem output_cases (op : Instr) (r : List Byte) (s : State) :
    (s.params.outCap < r.length ∧ output op r s = raiseError op { code := .outputOverflow, pos := 0, base := 0 } s) ∨
    (r.length ≤ s.params.outCap ∧ output op r s = deliver r s) := by
  unfold output
  by_cases h : r.length > s.params.outCap
  · exact .inl ⟨h, if_pos h⟩
  · exact .inr ⟨by omega, if_neg h⟩

/-- A configured encoding command: an input refused, a result to Output, or a carry left over. -/
theorem runEncode_cases (op : Instr) (enc : List Byte → Option (List Byte)) (s : State) :
    (s.params.inCap < s.inLen.toNat ∧ runEncode op enc s = .next (raiseInvalidInput op s)) ∨
    (s.inLen.toNat ≤ s.params.inCap ∧
      ((∃ r, enc (inputOperand s) = some r ∧ runEncode op enc s = .next (output op r s)) ∨
       (enc (inputOperand s) = none ∧ runEncode op enc s = .fault .carryOverflow))) := by
  unfold runEncode inputTooLong
  by_cases h : s.params.inCap < s.inLen.toNat
  · exact .inl ⟨h, by simp [h]⟩
  · refine .inr ⟨by omega, ?_⟩
    cases e : enc (inputOperand s) with
    | some r => exact .inl ⟨r, rfl, by simp [h]⟩
    | none => exact .inr ⟨rfl, by simp [h]⟩

/-- A configured decoding command: an input refused, a result to Output, an invalid character reported, or a carry
left over. -/
theorem runDecode_cases (op : Instr) (onInvalid : Nat → State → State) (dec : List Byte → Decoded) (s : State) :
    (s.params.inCap < s.inLen.toNat ∧ runDecode op onInvalid dec s = .next (raiseInvalidInput op s)) ∨
    (s.inLen.toNat ≤ s.params.inCap ∧
      ((∃ r, dec (inputOperand s) = .bytes r ∧ runDecode op onInvalid dec s = .next (output op r s)) ∨
       (∃ i, dec (inputOperand s) = .invalid i ∧ runDecode op onInvalid dec s = .next (onInvalid i s)) ∨
       (dec (inputOperand s) = .carryOverflow ∧ runDecode op onInvalid dec s = .fault .carryOverflow))) := by
  unfold runDecode inputTooLong
  by_cases h : s.params.inCap < s.inLen.toNat
  · exact .inl ⟨h, by simp [h]⟩
  · refine .inr ⟨by omega, ?_⟩
    cases e : dec (inputOperand s) with
    | bytes r => exact .inl ⟨r, rfl, by simp [h]⟩
    | invalid i => exact .inr (.inl ⟨i, rfl, by simp [h]⟩)
    | carryOverflow => exact .inr (.inr ⟨rfl, by simp [h]⟩)

/-- CONFIG either commits a configuration or raises an error of its own. -/
theorem execConfig_cases (s : State) :
    (∃ f, construct s.alen.toNat s.alpha.take s.ctrl.rfc4648 = .ok f ∧ execConfig s = .next (commitConfig f s)) ∨
    (∃ e, construct s.alen.toNat s.alpha.take s.ctrl.rfc4648 = .error e ∧
      execConfig s = .next (raiseError .config e s)) := by
  unfold execConfig
  cases construct s.alen.toNat s.alpha.take s.ctrl.rfc4648 with
  | ok f => exact .inl ⟨f, rfl, rfl⟩
  | error e => exact .inr ⟨e, rfl, rfl⟩

/-- Everything CONFIG's rule can answer, with the checks that led there. -/
theorem construct_cases (n : Nat) (rd : Nat → List Byte) (rfc : Bool) :
    (255 ≤ n ∧ construct n rd rfc = .error { code := .alphabetTooLong, pos := 0, base := 0 }) ∨
    (n < 2 ∧ construct n rd rfc = .error { code := .alphabetTooShort, pos := 0, base := 0 }) ∨
    (2 ≤ n ∧ n ≤ 254 ∧
      ((∃ i, buildReverse 0 (rd n) emptyReverse = .error i ∧
          construct n rd rfc = .error { code := .ambiguousAlphabet, pos := i, base := 0 }) ∨
       (∃ rev, buildReverse 0 (rd n) emptyReverse = .ok rev ∧
          ((selectMode n rfc = .quantized ∧ revLookup rev Config.pad ≠ Config.invalid ∧
              construct n rd rfc =
                .error { code := .padInAlphabet, pos := (revLookup rev Config.pad).toNat, base := 0 }) ∨
           (¬ (selectMode n rfc = .quantized ∧ revLookup rev Config.pad ≠ Config.invalid) ∧
              construct n rd rfc =
                .ok { falpha := rd n, fn := n, fleader := (rd n).headD 0, revmap := rev, mode := selectMode n rfc
                      fk := selectK n, fmask := 2 ^ selectK n - 1 }))))) := by
  unfold construct
  by_cases h1 : 255 ≤ n
  · exact .inl ⟨h1, if_pos h1⟩
  · by_cases h2 : n < 2
    · exact .inr (.inl ⟨h2, by rw [if_neg h1, if_pos h2]⟩)
    · refine .inr (.inr ⟨by omega, by omega, ?_⟩)
      rw [if_neg h1, if_neg h2]
      cases hb : buildReverse 0 (rd n) emptyReverse with
      | error i => exact .inl ⟨i, rfl, by simp [hb]⟩
      | ok rev =>
        refine .inr ⟨rev, rfl, ?_⟩
        by_cases h3 : selectMode n rfc = .quantized ∧ revLookup rev Config.pad ≠ Config.invalid
        · exact .inl ⟨h3.1, h3.2, by simp [hb, h3.1, h3.2]⟩
        · exact .inr ⟨h3, by simp [hb, h3]⟩

/-- A step is the engine's, when a command is due and reset is released, or the host's. -/
theorem step_cases (s : State) :
    (∃ op, s.phase = .busy op ∧ s.delay = 0 ∧ s.resetHeld = false ∧ step s = exec op s) ∨
    ((s.phase = .idle ∨ 0 < s.delay ∨ s.resetHeld = true) ∧ step s = .next (hostTurn s)) := by
  unfold step engineReady
  cases h : s.phase with
  | idle => exact .inr ⟨.inl rfl, rfl⟩
  | busy op =>
    by_cases hd : s.delay = 0 ∧ s.resetHeld = false
    · exact .inl ⟨op, rfl, hd.1, hd.2, by simp [hd]⟩
    · refine .inr ⟨.inr ?_, by simp [hd]⟩
      cases hr : s.resetHeld with
      | true => exact .inr rfl
      | false => exact .inl (Nat.pos_of_ne_zero fun h0 => hd ⟨h0, hr⟩)

/-- A host turn serves the oldest event, or none. -/
theorem hostTurn_cases (s : State) :
    (s.pending = [] ∧ hostTurn s = { s with delay := s.delay - 1 }) ∨
    (∃ e rest, s.pending = e :: rest ∧
      hostTurn s = hostEvent e { s with delay := s.delay - 1, pending := rest }) := by
  unfold hostTurn
  cases h : s.pending with
  | nil => exact .inl ⟨rfl, by simp⟩
  | cons e rest => exact .inr ⟨e, rest, rfl, by simp⟩

/-- What an event does while reset is released. -/
theorem hostEvent_released {s : State} (h : s.resetHeld = false) :
    (∀ size off, hostEvent (.read size off) s = hostRead size off s) ∧
    (∀ size off v, hostEvent (.write size off v) s = hostWrite size off v s) ∧
    hostEvent .assertReset s = hardReset true s ∧ hostEvent .releaseReset s = s := by
  simp [hostEvent, h]

/-- What an event does while reset is asserted: no access changes the block. -/
theorem hostEvent_held {s : State} (h : s.resetHeld = true) :
    (∀ size off, hostEvent (.read size off) s = reply (targetValue s (target s.params size off)) s) ∧
    (∀ size off v, hostEvent (.write size off v) s = s) ∧
    hostEvent .assertReset s = hardReset true s ∧ hostEvent .releaseReset s = hardReset false s := by
  simp [hostEvent, heldRead, h]

/-- The three things a host read can do. -/
theorem readTarget_cases (t : Target) (s : State) :
    (readIsDraw s t = true ∧ readTarget t s = reply (Config.freeWord s.draws) { s with draws := s.draws + 1 }) ∨
    (t = .unmapped ∧ readTarget t s = reply 0 (setHerr s)) ∨
    (readIsDraw s t = false ∧ t ≠ .unmapped ∧ readTarget t s = reply (targetValue s t) s) := by
  have hu : readIsDraw s .unmapped = false := by unfold readIsDraw; cases s.phase <;> rfl
  unfold readTarget
  by_cases h : t = .unmapped
  · subst h
    exact .inr (.inl ⟨rfl, by simp [hu]⟩)
  · cases hd : readIsDraw s t with
    | true => exact .inl ⟨rfl, by simp⟩
    | false => exact .inr (.inr ⟨rfl, h, by simp [h]⟩)

/-- A dropped or a performed write. -/
theorem unlessBusy_cases (w : State → State) (s : State) :
    (s.phase ≠ .idle ∧ unlessBusy w s = setHerr s) ∨ (s.phase = .idle ∧ unlessBusy w s = w s) := by
  unfold unlessBusy busy
  cases h : s.phase with
  | idle => exact .inr ⟨rfl, by simp⟩
  | busy op => exact .inl ⟨by simp, by simp⟩

/-- A memory of no entries is in canonical form. -/
theorem reset_memory_wf :
    State.reset.alpha.cells.wf ∧ State.reset.inp.cells.wf ∧ State.reset.out.cells.wf :=
  ⟨List.Pairwise.nil, List.Pairwise.nil, List.Pairwise.nil⟩

end Sys2Proof.Machine
end

