-- ==== Sys2Proof/Laws/HostPort.lean ====
section
/-! SUPPORT. The window map by offset, and what an access to each part of it does. -/

namespace Sys2Proof.Machine

/-! ### The register offsets -/

@[simp] theorem target_id (p : Params) : target p 4 0#18 = .reg .id := rfl
@[simp] theorem target_ctrl (p : Params) : target p 4 4#18 = .reg .ctrl := rfl
@[simp] theorem target_alen (p : Params) : target p 4 8#18 = .reg .alen := rfl
@[simp] theorem target_cmd (p : Params) : target p 4 12#18 = .reg .cmd := rfl
@[simp] theorem target_status (p : Params) : target p 4 16#18 = .reg .status := rfl
@[simp] theorem target_inLen (p : Params) : target p 4 20#18 = .reg .inLen := rfl
@[simp] theorem target_outLen (p : Params) : target p 4 24#18 = .reg .outLen := rfl
@[simp] theorem target_errinfo (p : Params) : target p 4 28#18 = .reg .errinfo := rfl
@[simp] theorem target_leader (p : Params) : target p 4 32#18 = .reg .leader := rfl
@[simp] theorem target_nbase (p : Params) : target p 4 36#18 = .reg .nbase := rfl
@[simp] theorem target_incap (p : Params) : target p 4 40#18 = .reg .incap := rfl
@[simp] theorem target_outcap (p : Params) : target p 4 44#18 = .reg .outcap := rfl

/-! ### The other parts of the window -/

theorem regAt_eq_none {a : Nat} (h : 0x30 ≤ a) : regAt a = none := by
  unfold regAt
  split <;> first | omega | rfl

theorem targetAt_of_le {p : Params} {off : Offset} (h : 0x30 ≤ off.toNat) :
    targetAt p off =
      if off.toNat < 0x100 then .reserved
      else if off.toNat < 0x200 then .alpha (off.toNat - 0x100)
      else if 0x10000 ≤ off.toNat ∧ off.toNat < 0x10000 + p.inCap then .inp (off.toNat - 0x10000)
      else if 0x20000 ≤ off.toNat ∧ off.toNat < 0x20000 + p.outCap then .out (off.toNat - 0x20000)
      else .unmapped := by
  unfold targetAt
  simp only [regAt_eq_none h]

/-- An aligned 32-bit access goes by the window map. -/
theorem target_aligned {p : Params} {off : Offset} (h : off.toNat % 4 = 0) : target p 4 off = targetAt p off :=
  if_pos ⟨rfl, h⟩

theorem target_reserved {p : Params} {off : Offset} (h : off.toNat % 4 = 0) (h1 : 0x30 ≤ off.toNat)
    (h2 : off.toNat < 0x100) : target p 4 off = .reserved := by
  rw [target_aligned h, targetAt_of_le h1, if_pos h2]

theorem target_alpha {p : Params} {off : Offset} (h : off.toNat % 4 = 0) (h1 : 0x100 ≤ off.toNat)
    (h2 : off.toNat < 0x200) : target p 4 off = .alpha (off.toNat - 0x100) := by
  rw [target_aligned h, targetAt_of_le (by omega), if_neg (by omega), if_pos h2]

theorem target_inp {p : Params} {off : Offset} (h : off.toNat % 4 = 0) (h1 : 0x10000 ≤ off.toNat)
    (h2 : off.toNat < 0x10000 + p.inCap) : target p 4 off = .inp (off.toNat - 0x10000) := by
  rw [target_aligned h, targetAt_of_le (by omega), if_neg (by omega), if_neg (by omega), if_pos ⟨h1, h2⟩]

theorem target_out {p : Params} {off : Offset} (hp : p.inCap ≤ 0x10000) (h : off.toNat % 4 = 0)
    (h1 : 0x20000 ≤ off.toNat) (h2 : off.toNat < 0x20000 + p.outCap) :
    target p 4 off = .out (off.toNat - 0x20000) := by
  rw [target_aligned h, targetAt_of_le (by omega), if_neg (by omega), if_neg (by omega), if_neg (by omega),
    if_pos ⟨h1, h2⟩]

/-- An access that is not 32 bits wide or not aligned acts as one to an unmapped offset. -/
theorem target_malformed {p : Params} {size : Nat} {off : Offset} (h : size ≠ 4 ∨ off.toNat % 4 ≠ 0) :
    target p size off = .unmapped :=
  if_neg fun ⟨h1, h2⟩ => h.elim (fun h => h h1) fun h => h h2

/-! ### Reads and writes -/

/-- A word written to a RAM is read back. -/
theorem Ram.readWord_writeWord (r : Ram) (b : Nat) (v : Word) : (r.writeWord b v).readWord b = v := by
  unfold Ram.readWord
  simp only [Ram.read_writeWord]
  simpa using packBytes_byteOfWord v

/-- With the engine idle no read is a draw. -/
theorem readIsDraw_idle {s : State} (h : s.phase = .idle) (t : Target) : readIsDraw s t = false := by
  simp [readIsDraw, h]

@[simp] theorem readIsDraw_unmapped (s : State) : readIsDraw s .unmapped = false := by
  unfold readIsDraw; cases s.phase <;> rfl

@[simp] theorem readIsDraw_reserved (s : State) : readIsDraw s .reserved = false := by
  unfold readIsDraw; cases s.phase <;> rfl

@[simp] theorem readIsDraw_status (s : State) : readIsDraw s (.reg .status) = false := by
  unfold readIsDraw; cases s.phase <;> rfl

/-- An exact read answers the stored value and changes nothing else. -/
theorem readTarget_exact {s : State} {t : Target} (h : readIsDraw s t = false) (ht : t ≠ .unmapped) :
    readTarget t s = reply (targetValue s t) s := by
  simp [readTarget, h, ht]

theorem busy_iff (s : State) : busy s = true ↔ s.phase ≠ .idle := by
  unfold busy; cases s.phase <;> simp

theorem unlessBusy_idle {s : State} (h : s.phase = .idle) (w : State → State) : unlessBusy w s = w s := by
  simp [unlessBusy, busy, h]

theorem unlessBusy_busy {s : State} (h : s.phase ≠ .idle) (w : State → State) : unlessBusy w s = setHerr s := by
  simp [unlessBusy, (busy_iff s).2 h]

/-- STATUS by field: every bit of the word. -/
theorem statusWord_fields (s : State) :
    (statusWord s).getLsbD 0 = busy s ∧ (statusWord s).getLsbD 1 = s.done ∧
    (statusWord s).getLsbD 2 = configured s ∧ (statusWord s).getLsbD 3 = s.absent ∧
    (statusWord s).getLsbD 4 = s.herr ∧ (statusWord s).extractLsb' 5 3 = 0 ∧
    (statusWord s).extractLsb' 8 4 = errCode s.err ∧ (statusWord s).extractLsb' 12 4 = 0 ∧
    (statusWord s).extractLsb' 16 2 = modeCode s.frozen.mode ∧ (statusWord s).extractLsb' 18 2 = 0 ∧
    (statusWord s).extractLsb' 20 3 = kField s ∧ (statusWord s).extractLsb' 23 9 = 0 := by
  unfold statusWord
  generalize kField s = k
  generalize modeCode s.frozen.mode = m
  generalize errCode s.err = e
  generalize s.herr = hr
  generalize s.absent = ab
  generalize configured s = cf
  generalize s.done = dn
  generalize busy s = bz
  revert k m e hr ab cf dn bz
  decide +kernel

end Sys2Proof.Machine
end

