-- ==== Sys2Proof/Laws/PerInstr.lean ====
section
/-! SUPPORT. Statements for all instructions, one lemma per instruction. -/

namespace Sys2Proof.Laws.CommandEncoding

/-- The encoding of a command: well formed, reserved bits 31:4 zero, and an opcode from 1 to 4 (30_encoding.md R90,
R91). -/
def Statement (i : Instr) : Prop :=
  i.wf = true ∧ (encode i).extractLsb' 4 28 = 0 ∧ 1 ≤ (encode i).toNat ∧ (encode i).toNat ≤ 4

theorem config : Statement .config := by unfold Statement; decide

theorem encode : Statement .encode := by unfold Statement; decide

theorem decode : Statement .decode := by unfold Statement; decide

theorem decodeUnsafe : Statement .decodeUnsafe := by unfold Statement; decide

end Sys2Proof.Laws.CommandEncoding
end

