-- ==== Sys2Proof/Tests/Slice0.lean ====
section
/-! SUPPORT. The smoke test of well-formedness, decoding tests on words written out from 30_encoding.md R90 and R91,
two small tests per command from 95_test_vectors.md, and for every statement with hypotheses a witness that meets
them all. -/

namespace Sys2Proof.Tests

set_option Elab.async false

open Sys2Proof Sys2Proof.Machine Sys2Proof.Claims

/-! ### Well-formedness: an ill-formed term for each check -/

theorem test_wf_refuses_reserved_bits : (CommandWord.mk 2 1).wf = false := by decide
theorem test_wf_refuses_opcode_zero : (CommandWord.mk 0 0).wf = false := by decide
theorem test_wf_refuses_opcode_five : (CommandWord.mk 5 0).wf = false := by decide
theorem test_wf_accepts_encode : (CommandWord.mk 2 0).wf = true := by decide
theorem test_wf_refuses_capacity_zero : (Params.mk 0 4).wf = false := by decide
theorem test_wf_refuses_capacity_not_of_words : (Params.mk 256 6).wf = false := by decide
theorem test_wf_refuses_capacity_above_65536 : (Params.mk 65540 256).wf = false := by decide
theorem test_wf_accepts_capacity_bounds : (Params.mk 4 65536).wf = true := by decide

/-! ### Decoding: bits 31:4 zero, then OP (30_encoding.md R90, R91), and the bytes as R66 packs them -/

theorem test_decode_config_word : decodeWord 0b00000000000000000000000000000001 = .ok .config := by decide
theorem test_decode_encode_word : decodeWord 0b00000000000000000000000000000010 = .ok .encode := by decide
theorem test_decode_decode_word : decodeWord 0b00000000000000000000000000000011 = .ok .decode := by decide
theorem test_decode_decode_unsafe_word : decodeWord 0b00000000000000000000000000000100 = .ok .decodeUnsafe := by
  decide
theorem test_decode_rejects_op_zero : decodeWord 0x00000000 = .error (.reservedOpcode 0) := by decide
theorem test_decode_rejects_cmd6b : decodeWord 0x00000012 = .error (.reservedBits 1) := by decide
theorem test_decode_bytes_low_first : decodeBytes [0x04, 0x00, 0x00, 0x00] = .ok .decodeUnsafe := by decide
theorem test_decode_bytes_rejects_three : decodeBytes [0x04, 0x00, 0x00] = .error (.notOneWord 3) := by decide
theorem test_decode_table_words :
    decodeTableWord 32 1 = some .config ∧ decodeTableWord 32 2 = some .encode ∧
    decodeTableWord 32 3 = some .decode ∧ decodeTableWord 32 4 = some .decodeUnsafe := by decide

/-! ### States -/

/-- The next state of an outcome. -/
def nextOf : Host.Outcome State Fault Refusal → Option State
  | .next s => some s
  | .fault _ => none
  | .refused _ => none

/-- Capacities of 95_test_vectors.md section 2.8. -/
def idle : State := State.resetOf { inCap := 256, outCap := 256 }

def ramOf (g : Nat) (bs : List Byte) : Ram := (Ram.unspecified g).writeBytes 0 bs

/-- Alphabet loaded, CONFIG running and due. -/
def configuring (alphabet : List Byte) (rfc : Bool) : State :=
  { idle with
    alpha := ramOf 0 alphabet, alen := BitVec.ofNat 32 alphabet.length, ctrl := { rfc4648 := rfc, ie := false }
    phase := .busy .config }

/-- The frozen configuration CONFIG makes of an alphabet. -/
def frozenOf (alphabet : List Byte) (rfc : Bool) : Frozen :=
  match construct alphabet.length (fun _ => alphabet) rfc with
  | .ok f => f
  | .error _ => Frozen.reset

/-- A configured block with an input loaded. -/
def loaded (f : Frozen) (input : List Byte) : State :=
  { idle with frozen := f, inp := ramOf 1 input, inLen := BitVec.ofNat 32 input.length }

/-- "01234567" -/
def oct : List Byte := [0x30, 0x31, 0x32, 0x33, 0x34, 0x35, 0x36, 0x37]

/-- "ABCDEFGHIJKLMNOPQRSTUVWXYZ234567" -/
def b32 : List Byte :=
  (List.range 26).map (fun i => BitVec.ofNat 8 (0x41 + i)) ++ (List.range 6).map (fun i => BitVec.ofNat 8 (0x32 + i))

/-- "0123456789" -/
def dec : List Byte := (List.range 10).map fun i => BitVec.ofNat 8 (0x30 + i)

/-! ### Commands, from 95_test_vectors.md -/

/-- CFG-3: B32 with RFC4648 = 1. -/
theorem test_config_cfg3 :
    (nextOf (exec .config (configuring b32 true))).map (fun t => (statusWord t, leaderWord t, nbaseWord t)) =
      some (0x00530006, 0x41, 0x20) := by decide +kernel

/-- CFG-8: "abcb" repeats at index 3. -/
theorem test_config_cfg8 :
    (nextOf (exec .config (configuring [0x61, 0x62, 0x63, 0x62] false))).map
      (fun t => (statusWord t, errinfoWord t.errinfo)) = some (0x00000202, 0x00000003) := by decide +kernel

/-- Q-E3: B32Q "fo" gives "MZXQ====". -/
theorem test_encode_qe3 :
    (nextOf (exec .encode (loaded (frozenOf b32 true) [0x66, 0x6F]))).map (fun t => (t.outLen, t.out.take 8)) =
      some (8, [0x4D, 0x5A, 0x58, 0x51, 0x3D, 0x3D, 0x3D, 0x3D]) := by decide +kernel

/-- G-E18: DEC [0x00, 0xFF] gives "0255". -/
theorem test_encode_ge18 :
    (nextOf (exec .encode (loaded (frozenOf dec false) [0x00, 0xFF]))).map (fun t => (t.outLen, t.out.take 4)) =
      some (4, [0x30, 0x32, 0x35, 0x35]) := by decide +kernel

/-- BW-D21: OCT "777" gives [0x01, 0xFF], nine bits into two bytes. -/
theorem test_decode_bwd21 :
    (nextOf (exec .decode (loaded (frozenOf oct false) [0x37, 0x37, 0x37]))).map (fun t => (t.outLen, t.out.take 2)) =
      some (2, [0x01, 0xFF]) := by decide +kernel

/-- Q-D7: B32Q "M=Y" is INVALID(1), ERRINFO 0x00200001. -/
theorem test_decode_qd7 :
    (nextOf (exec .decode (loaded (frozenOf b32 true) [0x4D, 0x3D, 0x59]))).map
      (fun t => (statusWord t, errinfoWord t.errinfo, t.outLen)) = some (0x00530606, 0x00200001, 0) := by
  decide +kernel

/-- G-D17: DEC "0256" gives [0x00, 0x01, 0x00]. -/
theorem test_decode_unsafe_gd17 :
    (nextOf (exec .decodeUnsafe (loaded (frozenOf dec false) [0x30, 0x32, 0x35, 0x36]))).map
      (fun t => (t.outLen, t.out.take 3)) = some (3, [0x00, 0x01, 0x00]) := by decide +kernel

/-- As CMD-8 with the alphabet OCT: "08" is ABSENT at 1, ERR NONE, ERRINFO (1, 8). -/
theorem test_decode_unsafe_absent :
    (nextOf (exec .decodeUnsafe (loaded (frozenOf oct false) [0x30, 0x38]))).map
      (fun t => (statusWord t, errinfoWord t.errinfo, t.outLen)) = some (0x0032000E, 0x00080001, 0) := by
  decide +kernel

/-- Each command runs as the first step after reset: CONFIG with ALEN = 0 is ALPHABET_TOO_SHORT (CFG-10), a data
command is NOT_CONFIGURED (CMD-1). -/
theorem test_first_step_after_reset :
    (nextOf (step (State.reset.withFetchWord 32 1))).map (fun t => t.err) = some .alphabetTooShort ∧
    (nextOf (step (State.reset.withFetchWord 32 2))).map (fun t => t.err) = some .notConfigured ∧
    (nextOf (step (State.reset.withFetchWord 32 3))).map (fun t => t.err) = some .notConfigured ∧
    (nextOf (step (State.reset.withFetchWord 32 4))).map (fun t => t.err) = some .notConfigured := by
  decide +kernel

/-- CMD-10 (a): a write of IN_LEN while ENCODE runs is dropped and sets HERR. -/
theorem test_step_drops_busy_write :
    (nextOf (step { idle with phase := .busy .encode, delay := 1, inLen := 2, pending := [.write 4 0x14 5] })).map
      (fun t => (t.inLen, t.herr, t.delay)) = some (2, true, 0) := by decide +kernel

/-! ### Witnesses: for each statement with hypotheses, a concrete input that meets them all -/

theorem witness_EncodedCommandDecodesBack : Instr.decodeUnsafe.wf = true := by decide

theorem witness_DecoderAcceptsExactlyTheCommandWords :
    16 ≤ (0x00000010 : Word).toNat ∧ 16 ≤ (0xFFFFFFF2 : Word).toNat ∧ (0 : Word).toNat = 0 ∧
    (5 ≤ (5 : Word).toNat ∧ (5 : Word).toNat < 16) ∧ (5 ≤ (15 : Word).toNat ∧ (15 : Word).toNat < 16) := by decide

/-- Idle with a command word, idle with an illegal word (0, 5 and the reserved-bit word of CMD-6b), and busy. -/
theorem witness_CmdWriteIssuesRecordsOrIsDropped :
    idle.phase = .idle ∧ (0x00000001 : Word) = encode .config ∧ (0x00000004 : Word) = encode .decodeUnsafe ∧
    (∀ i, (0 : Word) ≠ encode i) ∧ (∀ i, (5 : Word) ≠ encode i) ∧ (∀ i, (0x12 : Word) ≠ encode i) ∧
    (configuring oct false).phase ≠ .idle := by
  refine ⟨by decide, by decide, by decide, ?_, ?_, ?_, by decide +kernel⟩ <;> intro i <;> cases i <;> decide

theorem witness_StepRunsTheLatchedCommand :
    (configuring oct false).phase = .busy .config ∧ (configuring oct false).delay = 0 ∧
    (configuring oct false).resetHeld = false ∧ decodeTableWord 32 3 = some .decode := by decide +kernel

/-- A running ENCODE with a turn to wait and a host write that will be dropped. -/
def waiting : State := { loaded (frozenOf oct false) [0x01] with phase := .busy .encode, delay := 2, pending := [.write 4 0x14 5] }

theorem witness_StepServesTheOldestHostEvent :
    0 < waiting.delay ∧ waiting.pending = .write 4 0x14 5 :: [] ∧ idle.phase = .idle ∧ idle.pending = [] ∧
    waiting.resetHeld = false ∧ ({ waiting with delay := 0, resetHeld := true } : State).resetHeld = true ∧
    ({ idle with pending := [.read 4 0x20000] } : State).pending = .read 4 0x20000 :: [] := by
  decide +kernel

theorem witness_ConfiguredOk_bitwise : ConfiguredOk (frozenOf oct false) ∧ (frozenOf oct false).mode = .bitwise := by
  decide +kernel

theorem witness_ConfiguredOk_quantized : ConfiguredOk (frozenOf oct true) ∧ (frozenOf oct true).mode = .quantized := by
  decide +kernel

theorem witness_ConfiguredOk_generic : ConfiguredOk (frozenOf dec false) ∧ (frozenOf dec false).mode = .generic := by
  decide +kernel

theorem witness_EveryCommandCompletes : FrozenOk waiting.frozen ∧ FrozenOk idle.frozen :=
  ⟨by decide +kernel, by decide +kernel⟩

theorem witness_Inv : State.Inv waiting :=
  ⟨by decide +kernel, by decide +kernel, by decide +kernel, by decide +kernel, by decide +kernel, by decide +kernel,
    by decide +kernel, fun h => by cases h⟩

theorem witness_IssuedCommandCompletesAfterItsDelay :
    State.Inv waiting ∧ waiting.phase = .busy .encode ∧ HostEvent.assertReset ∉ waiting.pending :=
  ⟨witness_Inv, by decide +kernel, by decide +kernel⟩

theorem witness_OperandsAreStableWhileBusy :
    ∃ t, waiting.phase = .busy .encode ∧ 0 < waiting.delay ∧ waiting.resetHeld = false ∧
      (∀ e rest, waiting.pending = e :: rest → e ≠ .assertReset) ∧ step waiting = .next t :=
  ⟨_, by decide +kernel, by decide +kernel, by decide +kernel,
    fun e rest h => by
      have : e = .write 4 0x14 5 := (List.cons.inj h).1.symm
      rw [this]
      decide,
    rfl⟩

/-- Each clause: CONFIG's completion, CONFIG's issue, the assertion of reset and its release. -/
theorem witness_FrozenConfigurationChangesOnlyByConfigOrReset :
    let c := { loaded (frozenOf oct false) [] with pending := [.write 4 0x0C 0x00000001] }
    let r := { loaded (frozenOf oct false) [] with pending := [.assertReset] }
    let h := { loaded (frozenOf oct false) [] with pending := [.releaseReset], resetHeld := true }
    (∃ t, step (configuring oct false) = .next t ∧ t.frozen ≠ (configuring oct false).frozen) ∧
    (∃ t, step c = .next t ∧ t.frozen ≠ c.frozen) ∧ (∃ t, step r = .next t ∧ t.frozen ≠ r.frozen) ∧
    ∃ t, step h = .next t ∧ t.frozen ≠ h.frozen :=
  ⟨⟨commitConfig (frozenOf oct false) (configuring oct false), rfl, by decide +kernel⟩,
    ⟨_, rfl, by decide +kernel⟩, ⟨_, rfl, by decide +kernel⟩, ⟨_, rfl, by decide +kernel⟩⟩

theorem witness_CommandsWriteOnlyTheirResults :
    (∃ t, exec .config (configuring oct false) = .next t) ∧ ∃ t, exec .encode idle = .next t :=
  ⟨⟨_, rfl⟩, ⟨_, rfl⟩⟩

/-- Two states that agree on a data command's operands and differ elsewhere. -/
theorem witness_DataResultDependsOnlyOnItsOperands :
    ∃ s₁ s₂ t₁ t₂ : State, Instr.encode ≠ .config ∧ s₁ ≠ s₂ ∧ s₁.frozen = s₂.frozen ∧ s₁.params = s₂.params ∧
      s₁.params.wf = true ∧ s₁.inLen = s₂.inLen ∧ s₁.errinfo = s₂.errinfo ∧
      (∀ a < s₁.inLen.toNat, s₁.inp.read a = s₂.inp.read a) ∧
      exec .encode s₁ = .next t₁ ∧ exec .encode s₂ = .next t₂ :=
  ⟨idle, { idle with herr := true, draws := 7 }, _, _, by decide, by decide +kernel, rfl, rfl, by decide, rfl, rfl,
    fun _ _ => rfl, rfl, rfl⟩

theorem witness_ConfigOutcomeDependsOnlyOnItsOperands :
    ∃ s₁ s₂ t₁ t₂ : State, s₁ ≠ s₂ ∧ s₁.alen = s₂.alen ∧ s₁.ctrl.rfc4648 = s₂.ctrl.rfc4648 ∧
      (s₁.alen.toNat ≤ 254 → ∀ a < s₁.alen.toNat, s₁.alpha.read a = s₂.alpha.read a) ∧ s₁.errinfo = s₂.errinfo ∧
      exec .config s₁ = .next t₁ ∧ exec .config s₂ = .next t₂ :=
  ⟨configuring oct false, { configuring oct false with herr := true }, _, _, by decide +kernel, rfl, rfl,
    fun _ _ _ => rfl, rfl, rfl, rfl⟩

theorem witness_ConfigRejectsLongAlphabets :
    255 ≤ ({ idle with alen := 255 } : State).alen.toNat ∧
    255 ≤ ({ idle with alen := 0xFFFFFFFF } : State).alen.toNat := by decide

theorem witness_ConfigRejectsShortAlphabets :
    idle.alen.toNat < 2 ∧ ({ idle with alen := 1 } : State).alen.toNat < 2 := by decide

/-- "aa". -/
theorem witness_ConfigReportsFirstRepeatedCharacter :
    let s := configuring [0x61, 0x61] false
    2 ≤ s.alen.toNat ∧ s.alen.toNat ≤ 254 ∧ 1 < s.alen.toNat ∧ (∃ j < 1, s.alpha.read j = s.alpha.read 1) ∧
    ∀ i' < 1, ∀ j < i', s.alpha.read j ≠ s.alpha.read i' := by
  refine ⟨by decide +kernel, by decide +kernel, by decide +kernel, ⟨0, by decide, by decide +kernel⟩, ?_⟩
  intro i' h j hj
  omega

/-- "0=": the pad at index 1, k = 1. -/
theorem witness_ConfigRejectsPadInQuantizedAlphabet :
    let s := configuring [0x30, 0x3D] true
    s.alen.toNat = 2 ^ 1 ∧ s.ctrl.rfc4648 = true ∧ (s.alpha.take s.alen.toNat).Nodup ∧ 1 < s.alen.toNat ∧
    s.alpha.read 1 = 0x3D := by decide +kernel

theorem witness_ConfigFreezesPowerOfTwoAlphabets :
    let s := configuring oct true
    s.alen.toNat = 2 ^ 3 ∧ (s.alpha.take s.alen.toNat).Nodup ∧
    (s.ctrl.rfc4648 = true → (0x3D : Byte) ∉ s.alpha.take s.alen.toNat) := by decide +kernel

theorem witness_ConfigFreezesOtherAlphabetsAsGeneric :
    let s := configuring dec true
    3 ≤ s.alen.toNat ∧ s.alen.toNat ≤ 254 ∧ (∀ k, s.alen.toNat ≠ 2 ^ k) ∧ (s.alpha.take s.alen.toNat).Nodup := by
  refine ⟨by decide +kernel, by decide +kernel, fun k h => ?_, by decide +kernel⟩
  have h10 : (10 : Nat) = 2 ^ k := h
  clear h
  rcases Nat.lt_or_ge k 4 with hk | hk
  · have small : ∀ k < 4, (10 : Nat) ≠ 2 ^ k := by decide
    exact small k hk h10
  · have := Nat.pow_le_pow_right (show 0 < 2 by decide) hk
    omega

theorem witness_UnconfiguredDataCommandFails : Instr.encode ≠ .config ∧ idle.frozen.mode = .none := by decide

theorem witness_OversizedInputFails :
    let s := { loaded (frozenOf oct false) [] with inLen := 257 }
    Instr.decode ≠ .config ∧ s.frozen.mode ≠ .none ∧ s.params.inCap < s.inLen.toNat := by decide +kernel

/-- OUT_CAP = 4: six octal digits, and five zero bytes. -/
def smallOut (input : List Byte) : State :=
  { loaded (frozenOf oct false) input with params := { inCap := 256, outCap := 4 } }

theorem witness_ResultLongerThanOutFails :
    ((smallOut [0xFF, 0xFF]).inLen.toNat ≤ (smallOut [0xFF, 0xFF]).params.inCap ∧
      encResult (smallOut [0xFF, 0xFF]).frozen (inputOperand (smallOut [0xFF, 0xFF])) =
        some [0x31, 0x37, 0x37, 0x37, 0x37, 0x37] ∧ (smallOut [0xFF, 0xFF]).params.outCap < 6) ∧
    (decResult (smallOut (List.replicate 5 0x30)).frozen (inputOperand (smallOut (List.replicate 5 0x30))) =
      some (.bytes [0, 0, 0, 0, 0])) := by decide +kernel

theorem witness_EncodeDeliversTheEncodedString :
    let s := loaded (frozenOf oct false) [0x01, 0x00]
    s.params.wf = true ∧ s.inLen.toNat ≤ s.params.inCap ∧
    encResult s.frozen (inputOperand s) = some [0x34, 0x30, 0x30] ∧ 3 ≤ s.params.outCap := by decide +kernel

theorem witness_DecodeDeliversTheDecodedBytes :
    let s := loaded (frozenOf oct false) [0x34, 0x30, 0x30]
    s.params.wf = true ∧ s.inLen.toNat ≤ s.params.inCap ∧
    decResult s.frozen (inputOperand s) = some (.bytes [0x01, 0x00]) ∧ 2 ≤ s.params.outCap := by decide +kernel

theorem witness_DecodeUnsafeDeliversTheDecodedBytes :
    let s := loaded (frozenOf dec false) [0x30, 0x32, 0x35, 0x36]
    s.params.wf = true ∧ s.inLen.toNat ≤ s.params.inCap ∧
    decResult s.frozen (inputOperand s) = some (.bytes [0x00, 0x01, 0x00]) ∧ 3 ≤ s.params.outCap := by decide +kernel

theorem witness_InvalidCharacterIsErrorOrAbsent :
    let s := loaded (frozenOf oct false) [0x30, 0x38]
    ConfiguredOk s.frozen ∧ s.inLen.toNat ≤ s.params.inCap ∧ s.frozen.mode ≠ .quantized ∧
    inputOperand s = [0x30, 0x38] ∧ (0x30 : Byte) ∈ s.frozen.falpha ∧ (0x38 : Byte) ∉ s.frozen.falpha := by
  decide +kernel

/-- `LeastInvalid` itself: index 1 of "08" and of the quantized "0=8=" less its last pad. -/
theorem witness_InvalidIndexIsTheLeast :
    LeastInvalid (frozenOf oct false) [0x30, 0x38] 1 ∧
    LeastInvalid (frozenOf oct true) (stripPads [0x30, 0x3D, 0x38, 0x3D]) 1 := by
  constructor
  · refine ⟨⟨0x38, by decide +kernel, by decide +kernel⟩, fun j hj c hc => ?_⟩
    obtain rfl : j = 0 := by omega
    have : c = 0x30 := by simpa using hc.symm
    rw [this]
    decide +kernel
  · refine ⟨⟨0x3D, by decide +kernel, by decide +kernel⟩, fun j hj c hc => ?_⟩
    obtain rfl : j = 0 := by omega
    have h0 : (stripPads [0x30, 0x3D, 0x38, 0x3D])[0]? = some 0x30 := by decide +kernel
    have : c = 0x30 := (Option.some.inj (h0.symm.trans hc)).symm
    rw [this]
    decide +kernel

/-- Every clause: the GENERIC "0255" both ways, and the invalid character of "08". -/
theorem witness_DataCommandsComputeTheCodec :
    let e := loaded (frozenOf dec false) [0x00, 0xFF]
    let d := loaded (frozenOf dec false) [0x30, 0x32, 0x35, 0x35]
    let x := loaded (frozenOf oct false) [0x30, 0x38]
    (e.params.wf = true ∧ ConfiguredOk e.frozen ∧ e.inLen.toNat ≤ e.params.inCap ∧
      zeroCount (inputOperand e) = 1 ∧ 4 ≤ e.params.outCap) ∧
    (ConfiguredOk d.frozen ∧ inputOperand d = [0x30, 0x32, 0x35, 0x35] ∧
      AllValid d.frozen (inputOperand d)) ∧
    (ConfiguredOk x.frozen ∧ codecDecode x.frozen (inputOperand x) = .invalid 1) :=
  ⟨by decide +kernel, by decide +kernel, by decide +kernel⟩

theorem codec_encode_dec_255 : codecEncode (frozenOf dec false) [0x00, 0xFF] = [0x30, 0x32, 0x35, 0x35] := by
  have hz : codecEncode (frozenOf dec false) [0x00, 0xFF] =
      [0x30] ++ (digitsOf 10 255).map fun d => (frozenOf dec false).falpha.getD d 0 := by rfl
  rw [hz, show digitsOf 10 255 = [2, 5, 5] by simp [digitsOf]]
  decide +kernel

/-- An ENCODE of [0x01, 0x00] under OCT, and a state whose IN holds its result "400". -/
theorem witness_EncodeThenDecodeReturnsTheInput :
    let s := loaded (frozenOf oct false) [0x01, 0x00]
    let s' := loaded (frozenOf oct false) [0x34, 0x30, 0x30]
    ∃ t, s.params.wf = true ∧ ConfiguredOk s.frozen ∧ exec .encode s = .next t ∧ t.err = .none ∧
      s'.frozen = s.frozen ∧ s'.params = s.params ∧ s'.inLen = t.outLen ∧ t.outLen.toNat ≤ s.params.inCap ∧
      (∀ a < t.outLen.toNat, s'.inp.read a = t.out.read a) ∧ s.inLen.toNat ≤ s.params.outCap :=
  have run : ∀ s : State, s.frozen = frozenOf oct false → s.params = { inCap := 256, outCap := 256 } →
      s.inLen = 2 → inputOperand s = [0x01, 0x00] → exec .encode s = .next (output .encode [0x34, 0x30, 0x30] s) := by
    intro s hf hp hl hi
    have hm : s.frozen.mode = .bitwise := by rw [hf]; decide +kernel
    have hq : bitwiseEncode s.frozen [0x01, 0x00] = [0x34, 0x30, 0x30] := by rw [hf]; decide +kernel
    have ht : inputTooLong s = false := by simp only [inputTooLong, hp, hl]; decide
    show execEncode s = _
    simp only [execEncode, runEncode, hm, hi, hq, ht]
    rfl
  ⟨output .encode [0x34, 0x30, 0x30] (loaded (frozenOf oct false) [0x01, 0x00]), by decide +kernel,
    by decide +kernel, run _ rfl rfl rfl (by decide +kernel), by decide +kernel, by decide +kernel, by decide +kernel,
    by decide +kernel, by decide +kernel, by decide +kernel, by decide +kernel⟩

theorem witness_EmptyInputGivesEmptyResult :
    let s := loaded (frozenOf dec false) []
    Instr.decodeUnsafe ≠ .config ∧ s.params.wf = true ∧ ConfiguredOk s.frozen ∧ s.inLen = 0 := by decide +kernel

theorem witness_BitwiseEncodeClosedForm :
    ConfiguredOk (frozenOf oct false) ∧ (frozenOf oct false).fn = 2 ^ (frozenOf oct false).fk := by decide +kernel

theorem witness_BitwiseDecodeClosedForm :
    ConfiguredOk (frozenOf oct false) ∧ (frozenOf oct false).fn = 2 ^ (frozenOf oct false).fk ∧
    AllValid (frozenOf oct false) ([0x30, 0x31, 0x30].drop (leaderCount (frozenOf oct false) [0x30, 0x31, 0x30])) := by
  decide +kernel

theorem witness_GenericEncodeClosedForm : ConfiguredOk (frozenOf dec false) := by decide +kernel

theorem witness_GenericDecodeClosedForm :
    ConfiguredOk (frozenOf dec false) ∧
    AllValid (frozenOf dec false) ([0x30, 0x31, 0x30].drop (leaderCount (frozenOf dec false) [0x30, 0x31, 0x30])) := by
  decide +kernel

theorem witness_BitwiseAndGenericPathsAgree :
    ConfiguredOk (frozenOf oct true) ∧ (frozenOf oct true).fn = 2 ^ (frozenOf oct true).fk := by decide +kernel

theorem witness_QuantEncodeClosedForm :
    ConfiguredOk (frozenOf b32 true) ∧ (frozenOf b32 true).mode = .quantized := by decide +kernel

theorem witness_QuantDecodeClosedForm :
    ConfiguredOk (frozenOf oct true) ∧ (frozenOf oct true).mode = .quantized ∧
    AllValid (frozenOf oct true) (stripPads [0x37, 0x37, 0x36, 0x3D, 0x3D, 0x3D, 0x3D, 0x3D]) := by decide +kernel

theorem witness_QuantizedRoundTrip :
    ConfiguredOk (frozenOf b32 true) ∧ (frozenOf b32 true).mode = .quantized := witness_QuantEncodeClosedForm

theorem witness_QuantEncodeLength :
    ConfiguredOk (frozenOf b32 true) ∧ (frozenOf b32 true).mode = .quantized := witness_QuantEncodeClosedForm

theorem witness_StandardModesAreBijective :
    (ConfiguredOk (frozenOf dec false) ∧ (frozenOf dec false).mode = .generic) ∧
    AllValid (frozenOf dec false) [0x30, 0x32] := by decide +kernel

theorem witness_LeadingZerosBecomeLeaders :
    ConfiguredOk (frozenOf dec false) ∧ (frozenOf dec false).mode = .generic ∧
    encResult (frozenOf dec false) [0x00, 0xFF] = some [0x30, 0x32, 0x35, 0x35] := by decide +kernel

theorem witness_RoomyOutputNeverOverflows :
    let s := { loaded (frozenOf oct false) [] with params := { inCap := 32, outCap := 256 } }
    FrozenOk s.frozen ∧ 8 * s.params.inCap ≤ s.params.outCap ∧
    (nextOf (exec .encode s)).isSome = true ∧
    decResult s.frozen [0x30] = some (.bytes [0x00]) ∧ encResult s.frozen [0x00] = some [0x30] := by decide +kernel

theorem witness_WindowIsAlignedAndAddressable : windowOffset (systemAddress 0x3FFFF) = some 0x3FFFF := by
  have h : (0x3FFFF : Offset).toNat = 0x3FFFF := by decide
  simp [windowOffset, systemAddress]

/-- Each clause at a boundary: a halfword access, offset 0x102, 0x200, the first offset past IN, past OUT, and the
first and last word of OUT. -/
theorem witness_BadAccessSetsOnlyHerr :
    idle.params.wf = true ∧ BadAccess idle.params 2 0x100 ∧ BadAccess idle.params 4 0x102 ∧
    BadAccess idle.params 4 0x200 ∧ BadAccess idle.params 4 0xFFFC ∧ BadAccess idle.params 4 0x10100 ∧
    BadAccess idle.params 4 0x1FFFC ∧ BadAccess idle.params 4 0x20100 ∧ BadAccess idle.params 4 0x3FFFC ∧
    InOut idle.params 0x20000 ∧ InOut idle.params 0x200FC := by
  refine ⟨?_, ?_, ?_, ?_, ?_, ?_, ?_, ?_, ?_, ?_, ?_⟩ <;> decide

theorem witness_ReservedOffsetsReadZero :
    ((0x30 : Offset).toNat % 4 = 0 ∧ 0x30 ≤ (0x30 : Offset).toNat ∧ (0x30 : Offset).toNat ≤ 0xFF) ∧
    ((0xFC : Offset).toNat % 4 = 0 ∧ 0x30 ≤ (0xFC : Offset).toNat ∧ (0xFC : Offset).toNat ≤ 0xFF) := by decide

/-- The write of 1 to bit 4 of STATUS, the assertion of reset, and its release. -/
theorem witness_HerrClearsOnlyByStatusWriteOrReset :
    let s := { idle with herr := true, pending := [.write 4 0x10 0x10] }
    let r := { idle with herr := true, pending := [.assertReset] }
    let h := { idle with herr := true, pending := [.releaseReset], resetHeld := true }
    (∃ t, step s = .next t ∧ s.herr = true ∧ t.herr = false) ∧
    (∃ t, step r = .next t ∧ r.herr = true ∧ t.herr = false) ∧
    ∃ t, step h = .next t ∧ h.herr = true ∧ t.herr = false :=
  ⟨⟨_, rfl, by decide +kernel, by decide +kernel⟩, ⟨_, rfl, by decide +kernel, by decide +kernel⟩, ⟨_, rfl, by decide +kernel, by decide +kernel⟩⟩

/-- The write of 1 to bit 1 of STATUS, the assertion of reset, its release, and the issue of ENCODE. -/
theorem witness_DoneFallsOnlyByStatusWriteIssueOrReset :
    let s := { idle with done := true, pending := [.write 4 0x10 0x02] }
    let r := { idle with done := true, pending := [.assertReset] }
    let h := { idle with done := true, pending := [.releaseReset], resetHeld := true }
    let c := { idle with done := true, pending := [.write 4 0x0C 0x02] }
    (∃ t, step s = .next t ∧ s.done = true ∧ t.done = false) ∧
    (∃ t, step r = .next t ∧ r.done = true ∧ t.done = false) ∧
    (∃ t, step h = .next t ∧ h.done = true ∧ t.done = false) ∧
    ∃ t, step c = .next t ∧ c.done = true ∧ t.done = false :=
  ⟨⟨_, rfl, by decide +kernel, by decide +kernel⟩, ⟨_, rfl, by decide +kernel, by decide +kernel⟩,
    ⟨_, rfl, by decide +kernel, by decide +kernel⟩, ⟨_, rfl, by decide +kernel, by decide +kernel⟩⟩

theorem witness_RamWordsAreLittleEndian :
    idle.phase = .idle ∧ idle.params.wf = true ∧ InAlpha 0x100 ∧ InAlpha 0x1FC ∧ InIn idle.params 0x10000 ∧
    InIn idle.params 0x100FC ∧ InOut idle.params 0x20000 ∧ InOut idle.params 0x200FC := by
  refine ⟨?_, ?_, ?_, ?_, ?_, ?_, ?_, ?_⟩ <;> decide

theorem witness_IdleRegisterWritesReadBack : idle.phase = .idle := by decide

theorem witness_ReadOnlyRegistersShowTheirState :
    idle.phase = .idle ∧ idle.frozen.mode = .none ∧ (loaded (frozenOf oct false) []).phase = .idle ∧
    ConfiguredOk (loaded (frozenOf oct false) []).frozen := by decide +kernel

theorem witness_StatusReadsAndClearsByField :
    idle.frozen.mode = .none ∧ ConfiguredOk (loaded (frozenOf oct false) []).frozen := by decide +kernel

/-- A running CONFIG, for the clauses about LEADER and NBASE. -/
def reconfiguring : State := { configuring oct false with delay := 1 }

theorem witness_InvariantStatesNeverStop : State.Inv reconfiguring :=
  ⟨by decide +kernel, by decide +kernel, by decide +kernel, by decide +kernel, by decide +kernel, by decide +kernel,
    by decide +kernel, fun h => by cases h⟩

theorem witness_BusyAccessesAreDroppedDrawnOrExact :
    (State.Inv reconfiguring ∧ reconfiguring.phase = .busy .config) ∧
    DroppedWhileBusy idle.params 4 0x04 ∧ DroppedWhileBusy idle.params 4 0x14 ∧
    DroppedWhileBusy idle.params 4 0x1FC ∧ DroppedWhileBusy idle.params 4 0x100FC ∧
    ¬ DroppedWhileBusy idle.params 4 0x10 ∧ ¬ DroppedWhileBusy idle.params 4 0x10100 ∧
    DrawnWhileBusy idle.params .encode 4 0x18 ∧ DrawnWhileBusy idle.params .encode 4 0x200FC ∧
    DrawnWhileBusy idle.params .config 4 0x24 ∧ ¬ DrawnWhileBusy idle.params .encode 4 0x24 ∧
    ¬ DrawnWhileBusy idle.params .config 4 0x28 := by
  refine ⟨⟨witness_InvariantStatesNeverStop, ?_⟩, ?_, ?_, ?_, ?_, ?_, ?_, ?_, ?_, ?_, ?_, ?_⟩ <;> decide +kernel

theorem witness_IrqFollowsDoneAndEnable :
    (∃ t, exec .encode idle = .next t) ∧ (0x00000002 : Word).getLsbD 1 = true ∧ idle.phase = .idle ∧
    (0x00000001 : Word).getLsbD 1 = false ∧ idle.done = false ∧
    ({ idle with done := true } : State).phase = .idle ∧ ∀ i, (0x00000005 : Word) ≠ encode i :=
  ⟨⟨_, rfl⟩, by decide, by decide, by decide, by decide, by decide, fun i => by cases i <;> decide⟩

theorem witness_ResetAbandonsTheRunningCommand :
    let s := { reconfiguring with pending := [.assertReset] }
    0 < s.delay ∧ s.pending = .assertReset :: [] ∧ s.phase = .busy .config := by decide +kernel

/-- The block with reset asserted, a host write coming. -/
def held : State := { idle with resetHeld := true, pending := [.write 4 0x0C 0x00000001] }

/-- A held state, at the reset values, whose step leaves it held; and its release. -/
theorem witness_ResetLeavesAQuietUnconfiguredBlock :
    (held.resetHeld = true ∧ AtReset held ∧ ∃ t, step held = .next t ∧ t.resetHeld = true) ∧
    ∃ t, step { held with pending := [.releaseReset] } = .next t ∧ t.resetHeld = false :=
  ⟨⟨rfl, by decide, ⟨_, rfl, by decide⟩⟩, ⟨_, rfl, by decide⟩⟩

/-- R260: while reset is asserted a command word, a bad access and a write have no effect. -/
theorem test_held_reset_voids_accesses :
    ((nextOf (step held)).map fun t => (statusWord t, t.phase)) = some (0, .idle) ∧
    ((nextOf (step { held with pending := [.read 2 0x102] })).map fun t => (t.herr, t.replies)) = some (false, [0]) ∧
    ((nextOf (step { held with pending := [.write 4 0x14 5] })).map fun t => t.inLen) = some 0 := by decide +kernel

theorem witness_InvariantHoldsAfterReset : (Params.mk 4 65536).wf = true := by decide

theorem witness_EveryStepKeepsTheInvariant : State.Inv waiting ∧ ∃ t, step waiting = .next t :=
  ⟨witness_Inv, ⟨_, rfl⟩⟩

end Sys2Proof.Tests
end

section
/-! Proofs about the host port: accesses to the reserved part of the window. -/

namespace Sys2Proof.Proofs

open Sys2Proof.Machine

/-- In every phase, so also with the engine busy: no read of a reserved offset is a draw (20_memory.md R68). -/
@[simp] theorem readTarget_reserved (s : State) : readTarget .reserved s = reply 0 s :=
  readTarget_exact (readIsDraw_reserved s) nofun

/-- The engine's being busy does not drop the write, so it sets no HERR (20_memory.md R68). -/
@[simp] theorem writeTarget_reserved (v : Word) (s : State) : writeTarget .reserved v s = s := rfl

/-- Settles O47: the offset lies in the reserved part of the window map, where a read answers 0 and a write is
ignored. -/
theorem reservedOffsetsReadZero : Obligations.ReservedOffsetsReadZero := by
  intro s off haligned hlow hhigh
  have htarget : target s.params 4 off = .reserved := target_reserved haligned hlow (Nat.lt_succ_of_le hhigh)
  constructor
  · rw [hostRead, htarget, readTarget_reserved, reply]
  · intro v
    rw [hostWrite, htarget, writeTarget_reserved]

end Sys2Proof.Proofs
end

section
/-! Proofs about the host port: host-access errors. -/

namespace Sys2Proof.Proofs

open Sys2Proof.Machine Sys2Proof.Claims

/-- The IN window ends at or below the start of the OUT window (00_scope.md R8). -/
theorem inCap_le_of_wf {p : Params} (h : p.wf = true) : p.inCap ≤ 0x10000 := by
  simp only [Params.wf, capacityWf, Bool.and_eq_true, decide_eq_true_eq] at h
  obtain ⟨⟨-, -, hle⟩, -⟩ := h
  exact hle

/-- Past ALPHA, an offset in neither buffer is unmapped, whatever the width of the access. -/
theorem target_outside_buffers {p : Params} {size : Nat} {off : Offset} (h : 0x200 ≤ off.toNat)
    (hin : ¬ (0x10000 ≤ off.toNat ∧ off.toNat < 0x10000 + p.inCap))
    (hout : ¬ (0x20000 ≤ off.toNat ∧ off.toNat < 0x20000 + p.outCap)) : target p size off = .unmapped := by
  have hmap : targetAt p off = .unmapped := by
    rw [targetAt_of_le (by omega), if_neg (by omega), if_neg (by omega), if_neg hin, if_neg hout]
  rw [target, hmap, ite_self]

/-- A bad width or alignment, or one of the three gaps of the window map (20_memory.md R62): after ALPHA, after IN
and after OUT. -/
theorem target_badAccess {p : Params} {size : Nat} {off : Offset} (hp : p.wf = true) (h : BadAccess p size off) :
    target p size off = .unmapped := by
  have hcap := inCap_le_of_wf hp
  obtain hsize | halign | hgap | hgap | hgap := h
  · exact target_malformed (.inl hsize)
  · exact target_malformed (.inr halign)
  all_goals exact target_outside_buffers (by omega) (by omega) (by omega)

/-- In every phase: no read of an unmapped offset is a draw (20_memory.md R68). -/
@[simp] theorem readTarget_unmapped (s : State) : readTarget .unmapped s = reply 0 (setHerr s) := by
  simp [readTarget]

@[simp] theorem writeTarget_unmapped (v : Word) (s : State) : writeTarget .unmapped v s = setHerr s := rfl

@[simp] theorem writeTarget_out (b : Nat) (v : Word) (s : State) : writeTarget (.out b) v s = setHerr s := rfl

/-- Settles O46: a bad access reaches the unmapped target and a write to the OUT window the output buffer; in both the
port's answer is HERR alone, and a read's reply of 0. -/
theorem badAccessSetsOnlyHerr : Obligations.BadAccessSetsOnlyHerr := by
  intro s size off hwf
  constructor
  · intro hbad
    have htarget : target s.params size off = .unmapped := target_badAccess hwf hbad
    constructor
    · rw [hostRead, htarget, readTarget_unmapped, reply, setHerr]
    · intro v
      rw [hostWrite, htarget, writeTarget_unmapped, setHerr]
  · rintro ⟨haligned, hlow, hhigh⟩ v
    rw [hostWrite, target_out (inCap_le_of_wf hwf) haligned hlow hhigh, writeTarget_out, setHerr]

end Sys2Proof.Proofs
end

section
/-! Proofs about the encoding: the words the decoder accepts and the two ways it rejects the others. -/

namespace Sys2Proof.Proofs

/-- Bits 31:4 are clear exactly in the first 16 words. -/
theorem fieldsOfWord_rsv_eq_zero_iff (v : Word) : (fieldsOfWord v).rsv = 0 ↔ v.toNat < 16 := by
  have hrsv : (fieldsOfWord v).rsv.toNat = v.toNat / 16 := by
    have hlt := v.isLt
    simp only [fieldsOfWord, BitVec.extractLsb'_toNat, Nat.shiftRight_eq_div_pow]
    omega
  rw [← BitVec.toNat_inj, hrsv]
  exact Nat.div_eq_zero_iff_lt (by decide)

theorem fieldsOfWord_op_toNat (v : Word) : (fieldsOfWord v).op.toNat = v.toNat % 16 := by
  simp [fieldsOfWord]

/-- Reserved bits decide before the opcode is looked at (30_encoding.md R92). -/
theorem decodeWord_of_reservedBits {v : Word} (h : 16 ≤ v.toNat) :
    decodeWord v = .error (.reservedBits (fieldsOfWord v).rsv) :=
  if_neg ((fieldsOfWord_rsv_eq_zero_iff v).not.mpr (by omega))

theorem decodeWord_of_lt {v : Word} (h : v.toNat < 16) : decodeWord v = decodeOpcode (fieldsOfWord v).op :=
  if_pos ((fieldsOfWord_rsv_eq_zero_iff v).mpr h)

/-- The opcode map is the inverse of `opcodeOf` (30_encoding.md R91). -/
theorem decodeOpcode_eq_ok_iff (op : BitVec 4) (i : Instr) : decodeOpcode op = .ok i ↔ op = opcodeOf i := by
  revert op
  cases i <;> decide

theorem decodeOpcode_reserved {op : BitVec 4} (h : op.toNat = 0 ∨ 5 ≤ op.toNat) :
    decodeOpcode op = .error (.reservedOpcode op) := by
  revert op
  decide

theorem encode_toNat (i : Instr) : (encode i).toNat = (opcodeOf i).toNat := by
  cases i <;> rfl

/-- The decoder accepts exactly the encoder's words (30_encoding.md R91, R92): a word with a reserved bit set is
neither decoded nor encoded, and below 16 a word is its opcode. -/
theorem decodeWord_eq_ok_iff (v : Word) (i : Instr) : decodeWord v = .ok i ↔ v = encode i := by
  have hencode : v = encode i ↔ v.toNat = (opcodeOf i).toNat := by
    rw [← BitVec.toNat_inj, encode_toNat]
  have hop : (opcodeOf i).toNat < 16 := (opcodeOf i).isLt
  rw [hencode]
  by_cases hv : v.toNat < 16
  · rw [decodeWord_of_lt hv, decodeOpcode_eq_ok_iff, ← BitVec.toNat_inj, fieldsOfWord_op_toNat, Nat.mod_eq_of_lt hv]
  · have hne : v.toNat ≠ (opcodeOf i).toNat := by omega
    simp [decodeWord_of_reservedBits (Nat.le_of_not_lt hv), hne]

theorem decodeWord_of_reservedOpcode {v : Word} (h : v.toNat = 0 ∨ (5 ≤ v.toNat ∧ v.toNat < 16)) :
    decodeWord v = .error (.reservedOpcode (fieldsOfWord v).op) := by
  have hop := fieldsOfWord_op_toNat v
  rw [decodeWord_of_lt (by omega), decodeOpcode_reserved (by omega)]

/-- Settles O3: each of the four words is the encoding of its command, and the other words are rejected for their
reserved bits from 16 up and for their opcode below. -/
theorem decoderAcceptsExactlyTheCommandWords : Obligations.DecoderAcceptsExactlyTheCommandWords := fun v =>
  ⟨decodeWord_eq_ok_iff v .config, decodeWord_eq_ok_iff v .encode, decodeWord_eq_ok_iff v .decode,
    decodeWord_eq_ok_iff v .decodeUnsafe, decodeWord_of_reservedBits, decodeWord_of_reservedOpcode⟩

end Sys2Proof.Proofs
end

section
/-! Proofs about zero runs: what a leading run is (41_zero_run.md R130, R131). -/

namespace Sys2Proof.Proofs

open Sys2Proof.Machine

@[simp] theorem leadingRun_nil (x : Byte) : leadingRun x [] = 0 := rfl

@[simp] theorem leadingRun_cons_self (x : Byte) (bs : List Byte) :
    leadingRun x (x :: bs) = leadingRun x bs + 1 := if_pos rfl

@[simp] theorem leadingRun_cons_of_ne {x b : Byte} (h : b ≠ x) (bs : List Byte) : leadingRun x (b :: bs) = 0 :=
  if_neg h

theorem leadingRun_le_length (x : Byte) (s : List Byte) : leadingRun x s ≤ s.length := by
  induction s with
  | nil => simp
  | cons b bs ih =>
    by_cases hb : b = x
    · subst hb
      simpa using ih
    · simp [hb]

theorem getElem?_of_lt_leadingRun (x : Byte) (s : List Byte) : ∀ i < leadingRun x s, s[i]? = some x := by
  induction s with
  | nil => simp
  | cons b bs ih =>
    by_cases hb : b = x
    · subst hb
      rintro (_ | i) hi
      · rfl
      · exact ih i (by simpa using hi)
    · simp [hb]

/-- The run cannot be made longer. -/
theorem getElem?_leadingRun_ne (x : Byte) (s : List Byte) : s[leadingRun x s]? ≠ some x := by
  induction s with
  | nil => simp
  | cons b bs ih =>
    by_cases hb : b = x
    · subst hb
      simpa using ih
    · simp [hb]

theorem leadingRun_eq_zero {x : Byte} {s : List Byte} (h : s.head? ≠ some x) : leadingRun x s = 0 := by
  cases s with
  | nil => rfl
  | cons b bs => exact leadingRun_cons_of_ne (by simpa using h) bs

theorem leadingRun_replicate_append (x : Byte) (z : Nat) (s : List Byte) :
    leadingRun x (List.replicate z x ++ s) = z + leadingRun x s := by
  induction z with
  | zero => simp
  | succ z ih => simp [List.replicate_succ, ih, Nat.add_right_comm]

/-- Settles O30: ZeroCount and LeaderCount are both the leading run of one byte value, a run of that value that the
next byte ends. -/
theorem zeroRunsAreTheLongest : Obligations.ZeroRunsAreTheLongest :=
  ⟨fun b => ⟨leadingRun_le_length 0 b, getElem?_of_lt_leadingRun 0 b, getElem?_leadingRun_ne 0 b⟩,
    fun f s => ⟨leadingRun_le_length f.fleader s, getElem?_of_lt_leadingRun f.fleader s,
      getElem?_leadingRun_ne f.fleader s⟩⟩

end Sys2Proof.Proofs
end

section
/-! Proofs about digit sequences: the digits of both standard datapaths are below the base and start with no zero, so
their characters start with no leader (41_zero_run.md R135). -/

namespace Sys2Proof.Proofs

open Sys2Proof.Machine Sys2Proof.Claims

/-- A base-n digit sequence with no leading zero. -/
def MinimalDigits (n : Nat) (ds : List Nat) : Prop :=
  (∀ d ∈ ds, d < n) ∧ ds.head? ≠ some 0

/-- The alphabet's characters differ, so only digit 0 is written as the leader (10_state.md R40). -/
theorem char_eq_fleader_iff {f : Frozen} (hf : ConfiguredOk f) {d : Nat} (hd : d < f.fn) :
    f.char d = f.fleader ↔ d = 0 := by
  obtain ⟨-, -, -, hlen, hnodup, hhead, -⟩ := hf
  have hd' : d < f.falpha.length := hlen ▸ hd
  have hzero : f.falpha[0]? = some f.fleader := by rw [← List.head?_eq_getElem?, hhead]
  have hdigit : f.falpha[d]? = some (f.char d) := by simp [Frozen.char, hd']
  constructor
  · intro heq
    exact (List.getElem?_inj hd' hnodup).mp (by rw [hdigit, hzero, heq])
  · rintro rfl
    exact Option.some.inj (hdigit.symm.trans hzero)

theorem leaderCount_leaders_append_digits {f : Frozen} (hf : ConfiguredOk f) {ds : List Nat}
    (hds : MinimalDigits f.fn ds) (z : Nat) :
    leaderCount f (List.replicate z f.fleader ++ ds.map f.char) = z := by
  obtain ⟨hlt, hhead⟩ := hds
  have hchar : (ds.map f.char).head? ≠ some f.fleader := by
    cases ds with
    | nil => simp
    | cons d ds =>
      have hd : d ≠ 0 := by simpa using hhead
      simpa [char_eq_fleader_iff hf (hlt d List.mem_cons_self)] using hd
  rw [leaderCount, leadingRun_replicate_append, leadingRun_eq_zero hchar, Nat.add_zero]

/-! ### The big-number path -/

/-- The carry loop stores remainders by the radix and leaves the other digits alone (44_generic.md R182). -/
theorem propagate_digits_lt {mul radix length : Nat} (hradix : 0 < radix) {ds : List Nat}
    (hds : ∀ d ∈ ds, d < radix) (carry j : Nat) : ∀ d ∈ (propagate mul radix length carry j ds).digits, d < radix := by
  induction ds generalizing carry j with
  | nil => simp [propagate]
  | cons d ds ih =>
    rw [propagate]
    split
    · exact List.forall_mem_cons.mpr
        ⟨Nat.mod_lt _ hradix, ih (fun x hx => hds x (List.mem_cons_of_mem d hx)) _ _⟩
    · exact hds

theorem significant_minimalDigits {n : Nat} {digits : List Nat} (h : ∀ d ∈ digits, d < n) (length : Nat) :
    MinimalDigits n (significant digits length) := by
  constructor
  · intro d hd
    have hrev : d ∈ (digits.take length).reverse := (List.dropWhile_suffix _).mem hd
    exact h d (List.mem_of_mem_take (List.mem_reverse.mp hrev))
  · intro hzero
    have hstop := List.head?_dropWhile_not (fun d => d == 0) (digits.take length).reverse
    rw [← significant, hzero] at hstop
    simp at hstop

theorem genericFold_minimalDigits {mul radix : Nat} (hradix : 0 < radix) {xs digits ds : List Nat} {length : Nat}
    (hdigits : ∀ d ∈ digits, d < radix) (h : genericFold mul radix xs digits length = some ds) :
    MinimalDigits radix ds := by
  induction xs generalizing digits length with
  | nil =>
    obtain rfl := Option.some.inj h
    exact significant_minimalDigits hdigits length
  | cons x xs ih =>
    rw [genericFold] at h
    split at h
    · contradiction
    · exact ih (propagate_digits_lt hradix hdigits _ _) h

theorem genericEncode_eq_some {f : Frozen} (hn : 0 < f.fn) {b e : List Byte} (h : genericEncode f b = some e) :
    ∃ ds, MinimalDigits f.fn ds ∧ e = List.replicate (zeroCount b) f.fleader ++ ds.map f.char := by
  rw [genericEncode] at h
  split at h
  next ds hfold =>
    refine ⟨ds, genericFold_minimalDigits hn (fun d hd => ?_) hfold, (Option.some.inj h).symm⟩
    rwa [List.eq_of_mem_replicate hd]
  · contradiction

/-! ### The bitwise path -/

/-- The digit that the encoder's next group of bits makes (42_bitwise.md R140). -/
def nextDigit (e : BitEncoder) : Nat :=
  (e.acc >>> (e.nb - e.need)) &&& (2 ^ e.need - 1)

/-- The encoder once that digit has been taken off. -/
def takeDigit (k : Nat) (e : BitEncoder) : BitEncoder :=
  { acc := e.acc &&& (2 ^ (e.nb - e.need) - 1)
    nb := e.nb - e.need
    need := k
    started := nextDigit e != 0 || e.started }

theorem bitwiseDrain_wait {k : Nat} {e : BitEncoder} (h : ¬ e.need ≤ e.nb) (fuel : Nat) :
    bitwiseDrain k fuel e = ([], e) := by
  cases fuel with
  | zero => rfl
  | succ fuel => exact if_neg h

/-- A whole group is a digit, which is emitted unless it is a leading zero. -/
theorem bitwiseDrain_group {k : Nat} {e : BitEncoder} (h : e.need ≤ e.nb) (fuel : Nat) :
    bitwiseDrain k (fuel + 1) e =
      (if (takeDigit k e).started then nextDigit e :: (bitwiseDrain k fuel (takeDigit k e)).1
        else (bitwiseDrain k fuel (takeDigit k e)).1,
       (bitwiseDrain k fuel (takeDigit k e)).2) := if_pos h

theorem nextDigit_lt {k : Nat} {e : BitEncoder} (h : e.need ≤ k) : nextDigit e < 2 ^ k :=
  calc nextDigit e < 2 ^ e.need := Nat.and_lt_two_pow _ (Nat.sub_one_lt (Nat.two_pow_pos _).ne')
    _ ≤ 2 ^ k := Nat.pow_le_pow_right (by decide) h

/-- Every group is at most k bits wide, the first one included (42_bitwise.md R141). -/
theorem bitwiseDrain_digits_lt {k : Nat} (fuel : Nat) {e : BitEncoder} (h : e.need ≤ k) :
    (∀ d ∈ (bitwiseDrain k fuel e).1, d < 2 ^ k) ∧ (bitwiseDrain k fuel e).2.need ≤ k := by
  induction fuel generalizing e with
  | zero => simpa [bitwiseDrain] using h
  | succ fuel ih =>
    by_cases hgroup : e.need ≤ e.nb
    · obtain ⟨hlt, hneed⟩ := ih (e := takeDigit k e) le_rfl
      rw [bitwiseDrain_group hgroup]
      refine ⟨?_, hneed⟩
      split
      · exact List.forall_mem_cons.mpr ⟨nextDigit_lt h, hlt⟩
      · exact hlt
    · simpa [bitwiseDrain_wait hgroup] using h

/-- Before the first non-zero digit nothing is emitted, and `started` says when it has been. -/
theorem bitwiseDrain_unstarted {k : Nat} (fuel : Nat) {e : BitEncoder} (h : e.started = false) :
    ((bitwiseDrain k fuel e).1 = [] ∧ (bitwiseDrain k fuel e).2.started = false) ∨
      ∃ d ds, (bitwiseDrain k fuel e).1 = d :: ds ∧ d ≠ 0 := by
  induction fuel generalizing e with
  | zero => exact .inl ⟨rfl, h⟩
  | succ fuel ih =>
    by_cases hgroup : e.need ≤ e.nb
    · rw [bitwiseDrain_group hgroup]
      by_cases hzero : nextDigit e = 0
      · have hstarted : (takeDigit k e).started = false := by simp [takeDigit, hzero, h]
        simpa [hstarted] using ih hstarted
      · have hstarted : (takeDigit k e).started = true := by simp [takeDigit, hzero]
        exact .inr ⟨_, _, if_pos hstarted, hzero⟩
    · exact .inl (by simp [bitwiseDrain_wait hgroup, h])

theorem bitwiseDigits_lt {k : Nat} (bs : List Byte) {e : BitEncoder} (h : e.need ≤ k) :
    ∀ d ∈ bitwiseDigits k bs e, d < 2 ^ k := by
  induction bs generalizing e with
  | nil => simp [bitwiseDigits]
  | cons b bs ih =>
    obtain ⟨hlt, hneed⟩ := bitwiseDrain_digits_lt (k := k) (e.nb + 8)
      (e := { e with acc := (e.acc <<< 8) ||| b.toNat, nb := e.nb + 8 }) h
    exact List.forall_mem_append.mpr ⟨hlt, ih hneed⟩

theorem bitwiseDigits_head_ne_zero {k : Nat} (bs : List Byte) {e : BitEncoder} (h : e.started = false) :
    (bitwiseDigits k bs e).head? ≠ some 0 := by
  induction bs generalizing e with
  | nil => simp [bitwiseDigits]
  | cons b bs ih =>
    rw [bitwiseDigits]
    obtain ⟨hnil, hstarted⟩ | ⟨d, ds, hcons, hd⟩ := bitwiseDrain_unstarted (k := k) (e.nb + 8)
      (e := { e with acc := (e.acc <<< 8) ||| b.toNat, nb := e.nb + 8 }) h
    · simpa [hnil] using ih hstarted
    · simpa [hcons] using hd

theorem firstGroup_le {k : Nat} (hk : 0 < k) (totalBits : Nat) : firstGroup k totalBits ≤ k := by
  rw [firstGroup]
  split
  · exact le_rfl
  · exact (Nat.mod_lt _ hk).le

theorem bitwiseEncode_eq {f : Frozen} (hk : 0 < f.fk) (b : List Byte) :
    ∃ ds, MinimalDigits (2 ^ f.fk) ds ∧
      bitwiseEncode f b = List.replicate (zeroCount b) f.fleader ++ ds.map f.char :=
  ⟨_, ⟨bitwiseDigits_lt _ (firstGroup_le hk _), bitwiseDigits_head_ne_zero _ rfl⟩, rfl⟩

/-! ### Both paths -/

/-- An encoded string is the leaders, one for each leading zero byte, and then digits that start with no zero. -/
theorem encResult_eq_leaders_append_digits {f : Frozen} {b e : List Byte} (hf : ConfiguredOk f)
    (hmode : f.mode = .generic ∨ f.mode = .bitwise) (h : encResult f b = some e) :
    ∃ ds, MinimalDigits f.fn ds ∧ e = List.replicate (zeroCount b) f.fleader ++ ds.map f.char := by
  obtain ⟨-, hn, -, -, -, -, -, -, -, hpow, -⟩ := hf
  obtain hgeneric | hbitwise := hmode
  · rw [encResult, hgeneric] at h
    exact genericEncode_eq_some (by omega) h
  · rw [encResult, hbitwise] at h
    obtain ⟨hfn, hk, -⟩ := hpow (.inl hbitwise)
    obtain rfl := Option.some.inj h
    rw [hfn]
    exact bitwiseEncode_eq hk b

/-- Settles O42: what follows the leaders are the characters of digits that start with no zero, and no other digit is
written as the leader. -/
theorem leadingZerosBecomeLeaders : Obligations.LeadingZerosBecomeLeaders := by
  intro f b e hf hmode h
  obtain ⟨ds, hds, rfl⟩ := encResult_eq_leaders_append_digits hf hmode h
  exact leaderCount_leaders_append_digits hf hds (zeroCount b)

end Sys2Proof.Proofs
end

section
/-! Proofs about values of digit sequences: what Val_N and BE say of a sequence grown at its end, and the digits of
such a value (42_bitwise.md R144, R149). -/

namespace Sys2Proof.Proofs

open Sys2Proof.Machine Sys2Proof.Claims

@[simp] theorem valBase_nil (n : Nat) : valBase n [] = 0 := rfl

@[simp] theorem valBase_concat (n : Nat) (t : List Nat) (d : Nat) : valBase n (t ++ [d]) = n * valBase n t + d := by
  simp [valBase]

@[simp] theorem valBase_zero_cons (n : Nat) (t : List Nat) : valBase n (0 :: t) = valBase n t := by
  simp [valBase]

/-- Mathlib's digit lists start with the least significant digit. -/
theorem valBase_eq_ofDigits (n : Nat) (t : List Nat) : valBase n t = Nat.ofDigits n t.reverse := by
  simp [valBase, Nat.ofDigits_eq_foldr, Nat.add_comm]

theorem valBase_lt {n : Nat} (hn : 1 < n) {t : List Nat} (ht : ∀ d ∈ t, d < n) : valBase n t < n ^ t.length := by
  simpa [valBase_eq_ofDigits] using Nat.ofDigits_lt_base_pow_length (l := t.reverse) hn (by simpa using ht)

@[simp] theorem beValue_nil : beValue [] = 0 := rfl

theorem beValue_eq_valBase (b : List Byte) : beValue b = valBase 256 (b.map BitVec.toNat) := by
  rw [beValue, valBase, List.foldl_map]

@[simp] theorem beValue_concat (b : List Byte) (x : Byte) : beValue (b ++ [x]) = 256 * beValue b + x.toNat := by
  simp [beValue]

/-- A digit sequence with no leading zero is the one its value has. -/
theorem digitsOf_valBase_of_minimal {n : Nat} (hn : 1 < n) {ds : List Nat} (h : MinimalDigits n ds) :
    digitsOf n (valBase n ds) = ds := by
  obtain ⟨hlt, hhead⟩ := h
  rw [digitsOf, valBase_eq_ofDigits, Nat.digits_ofDigits n hn, List.reverse_reverse]
  · simpa using hlt
  · intro hne hlast
    rw [List.getLast_reverse] at hlast
    exact hhead (hlast ▸ List.head?_eq_some_head _)

/-- Leading zeros carry no value, so the digits of the value are what is left without them. -/
theorem digitsOf_valBase {n : Nat} (hn : 1 < n) {ds : List Nat} (h : ∀ d ∈ ds, d < n) :
    digitsOf n (valBase n ds) = ds.dropWhile (fun d => d == 0) := by
  induction ds with
  | nil => simp [digitsOf]
  | cons d ds ih =>
    by_cases hd : d = 0
    · subst hd
      simpa using ih fun x hx => h x (List.mem_cons_of_mem 0 hx)
    · rw [digitsOf_valBase_of_minimal hn ⟨h, by simpa using hd⟩]
      simp [hd]

/-- The run counted at the front is what `dropWhile` drops. -/
theorem drop_leadingRun (x : Byte) (s : List Byte) : s.drop (leadingRun x s) = s.dropWhile (fun b => b == x) := by
  induction s with
  | nil => rfl
  | cons b bs ih =>
    by_cases hb : b = x
    · subst hb
      simpa using ih
    · simp [hb]

/-- The minimal bytes of a byte sequence's value are the sequence without its leading zero bytes. -/
theorem minBytes_beValue (b : List Byte) : minBytes (beValue b) = b.drop (zeroCount b) := by
  have hzero : ((fun d => d == 0) ∘ BitVec.toNat : Byte → Bool) = fun x => x == 0 := by
    funext x
    simp [← BitVec.toNat_inj]
  have hlt : ∀ d ∈ b.map BitVec.toNat, d < 256 := List.forall_mem_map.mpr fun x _ => x.isLt
  rw [minBytes, beValue_eq_valBase, digitsOf_valBase (by decide) hlt, List.dropWhile_map, hzero, zeroCount,
    drop_leadingRun, List.map_map]
  simp [Function.comp_def]

end Sys2Proof.Proofs
end

section
/-! Proofs about accumulators: shifts and masks as arithmetic (00_scope.md R11). -/

namespace Sys2Proof.Proofs

/-- The top group of an accumulator needs no mask: nothing stands above it. -/
theorem topGroup_eq {acc nb w : Nat} (hacc : acc < 2 ^ nb) (hw : w ≤ nb) :
    (acc >>> (nb - w)) &&& (2 ^ w - 1) = acc / 2 ^ (nb - w) := by
  have hlt : acc / 2 ^ (nb - w) < 2 ^ w := by
    rw [Nat.div_lt_iff_lt_mul (Nat.two_pow_pos _), ← Nat.pow_add, Nat.add_sub_cancel' hw]
    exact hacc
  rw [Nat.shiftRight_eq_div_pow, Nat.and_two_pow_sub_one_eq_mod, Nat.mod_eq_of_lt hlt]

theorem shiftIn_eq {acc d w : Nat} (hd : d < 2 ^ w) : (acc <<< w) ||| d = acc * 2 ^ w + d := by
  rw [← Nat.shiftLeft_add_eq_or_of_lt hd, Nat.shiftLeft_eq]

theorem shiftIn_lt {acc d w nb : Nat} (hacc : acc < 2 ^ nb) (hd : d < 2 ^ w) : (acc <<< w) ||| d < 2 ^ (nb + w) :=
  calc (acc <<< w) ||| d = acc * 2 ^ w + d := shiftIn_eq hd
    _ < (acc + 1) * 2 ^ w := by rw [Nat.succ_mul]; exact Nat.add_lt_add_left hd _
    _ ≤ 2 ^ nb * 2 ^ w := Nat.mul_le_mul_right _ hacc
    _ = 2 ^ (nb + w) := (Nat.pow_add ..).symm

/-- Taking the top `w` of `nb` bits off an accumulator and appending them to what stands in front of it. -/
theorem moveGroup_eq (v acc : Nat) {nb w : Nat} (hw : w ≤ nb) :
    (2 ^ w * v + acc / 2 ^ (nb - w)) * 2 ^ (nb - w) + acc % 2 ^ (nb - w) = v * 2 ^ nb + acc := by
  have hpow : 2 ^ w * 2 ^ (nb - w) = 2 ^ nb := by rw [← Nat.pow_add, Nat.add_sub_cancel' hw]
  calc (2 ^ w * v + acc / 2 ^ (nb - w)) * 2 ^ (nb - w) + acc % 2 ^ (nb - w)
      = v * (2 ^ w * 2 ^ (nb - w)) + (acc / 2 ^ (nb - w) * 2 ^ (nb - w) + acc % 2 ^ (nb - w)) := by ring
    _ = v * 2 ^ nb + acc := by rw [hpow, Nat.div_add_mod']

end Sys2Proof.Proofs
end

section
/-! Proofs about BitwiseEncode: the value of the emitted digits and of the accumulator behind them is the value of the
bytes read, and the accumulator ends empty, so the digits are those of the bytes' value (42_bitwise.md R140, R144). -/

namespace Sys2Proof.Proofs

open Sys2Proof.Machine Sys2Proof.Claims

/-- The encoder `e` has emitted `ds` for bytes of value `v`, with `left` bits still to come (42_bitwise.md R140,
R141). -/
structure EncoderAt (k left v : Nat) (ds : List Nat) (e : BitEncoder) : Prop where
  acc_lt : e.acc < 2 ^ e.nb
  need_pos : 0 < e.need
  need_le : e.need ≤ k
  /-- Only the first group may be narrower than k bits. -/
  narrow_first : e.need = k ∨ ds = []
  unstarted : e.started = false → ds = []
  value : valBase (2 ^ k) ds * 2 ^ e.nb + e.acc = v
  /-- The bits held and to come fill whole groups after the next one. -/
  aligned : (e.nb + left) % k = e.need % k

/-- The first group is narrow by just the bits that do not fill whole groups (42_bitwise.md R141). -/
theorem firstGroup_mod (k totalBits : Nat) : firstGroup k totalBits % k = totalBits % k := by
  rw [firstGroup]
  split
  next h => rw [Nat.mod_self, h]
  · exact Nat.mod_mod _ _

theorem firstGroup_pos {k : Nat} (hk : 0 < k) (totalBits : Nat) : 0 < firstGroup k totalBits := by
  rw [firstGroup]
  split
  · exact hk
  next h => exact Nat.pos_of_ne_zero h

theorem encoderAt_initial {k : Nat} (hk : 0 < k) (left : Nat) :
    EncoderAt k left 0 [] { acc := 0, nb := 0, need := firstGroup k left, started := false } where
  acc_lt := by simp
  need_pos := firstGroup_pos hk left
  need_le := firstGroup_le hk left
  narrow_first := .inr rfl
  unstarted _ := rfl
  value := by simp
  aligned := by simp [firstGroup_mod]

theorem takeDigit_started_eq_false {k : Nat} {e : BitEncoder} :
    (takeDigit k e).started = false ↔ nextDigit e = 0 ∧ e.started = false := by
  simp [takeDigit]

theorem EncoderAt.nextDigit_eq {k left v : Nat} {ds : List Nat} {e : BitEncoder} (h : EncoderAt k left v ds e)
    (hgroup : e.need ≤ e.nb) : nextDigit e = e.acc / 2 ^ (e.nb - e.need) :=
  topGroup_eq h.acc_lt hgroup

/-- A group of bits becomes a digit of the same value; a leading zero, which is not emitted, has none. -/
theorem EncoderAt.after_takeDigit {k left v : Nat} {ds : List Nat} {e : BitEncoder} (h : EncoderAt k left v ds e)
    (hgroup : e.need ≤ e.nb) :
    EncoderAt k left v (if (takeDigit k e).started then ds ++ [nextDigit e] else ds) (takeDigit k e) where
  acc_lt := by
    rw [takeDigit, Nat.and_two_pow_sub_one_eq_mod]
    exact Nat.mod_lt _ (Nat.two_pow_pos _)
  need_pos := h.need_pos.trans_le h.need_le
  need_le := le_rfl
  narrow_first := .inl rfl
  unstarted hstarted := by
    obtain ⟨-, hquiet⟩ := takeDigit_started_eq_false.mp hstarted
    simp [hstarted, h.unstarted hquiet]
  value := by
    have hemitted : valBase (2 ^ k) (if (takeDigit k e).started then ds ++ [nextDigit e] else ds) =
        2 ^ e.need * valBase (2 ^ k) ds + nextDigit e := by
      split
      · obtain hneed | hds := h.narrow_first
        · rw [valBase_concat, hneed]
        · simp [hds, valBase]
      next hstarted =>
        obtain ⟨hzero, hquiet⟩ := takeDigit_started_eq_false.mp (Bool.eq_false_of_not_eq_true hstarted)
        simp [h.unstarted hquiet, hzero]
    rw [hemitted, h.nextDigit_eq hgroup, takeDigit, Nat.and_two_pow_sub_one_eq_mod, moveGroup_eq _ _ hgroup,
      h.value]
  aligned := by
    have hsplit : e.nb - e.need + left + e.need = e.nb + left := by omega
    have haligned : e.nb - e.need + left + e.need ≡ 0 + e.need [MOD k] := by
      rw [hsplit, Nat.zero_add]
      exact h.aligned
    simpa [takeDigit, Nat.ModEq] using haligned.add_right_cancel'

/-- The inner loop takes digits off until less than a group is left. -/
theorem EncoderAt.drain {k left v : Nat} {fuel : Nat} {ds : List Nat} {e : BitEncoder} (h : EncoderAt k left v ds e)
    (hfuel : e.nb ≤ fuel) :
    EncoderAt k left v (ds ++ (bitwiseDrain k fuel e).1) (bitwiseDrain k fuel e).2 ∧
      (bitwiseDrain k fuel e).2.nb < (bitwiseDrain k fuel e).2.need := by
  induction fuel generalizing ds e with
  | zero =>
    have hneed := h.need_pos
    exact ⟨by simpa [bitwiseDrain] using h, by simp only [bitwiseDrain]; omega⟩
  | succ fuel ih =>
    by_cases hgroup : e.need ≤ e.nb
    · have hneed := h.need_pos
      have hless : (takeDigit k e).nb ≤ fuel := by simp only [takeDigit]; omega
      have hemitted : ∀ r : List Nat, ds ++ (if (takeDigit k e).started then nextDigit e :: r else r) =
          (if (takeDigit k e).started then ds ++ [nextDigit e] else ds) ++ r := by
        intro r
        split <;> simp
      rw [bitwiseDrain_group hgroup, hemitted]
      exact ih (h.after_takeDigit hgroup) hless
    · rw [bitwiseDrain_wait hgroup]
      exact ⟨by simpa using h, Nat.lt_of_not_le hgroup⟩

/-- The next byte enters the accumulator from below. -/
theorem EncoderAt.loadByte {k left v : Nat} {ds : List Nat} {e : BitEncoder} (h : EncoderAt k (left + 8) v ds e)
    (b : Byte) :
    EncoderAt k left (256 * v + b.toNat) ds { e with acc := (e.acc <<< 8) ||| b.toNat, nb := e.nb + 8 } where
  acc_lt := shiftIn_lt h.acc_lt b.isLt
  need_pos := h.need_pos
  need_le := h.need_le
  narrow_first := h.narrow_first
  unstarted := h.unstarted
  value := by
    simp only [shiftIn_eq (w := 8) b.isLt, ← h.value]
    ring
  aligned := by
    simpa [Nat.add_assoc, Nat.add_comm 8] using h.aligned

/-- Once every bit has come, an accumulator that holds less than a group is empty. -/
theorem EncoderAt.nb_eq_zero {k v : Nat} {ds : List Nat} {e : BitEncoder} (h : EncoderAt k 0 v ds e)
    (hless : e.nb < e.need) : e.nb = 0 := by
  have haligned := h.aligned
  rw [Nat.add_zero, Nat.mod_eq_of_lt (hless.trans_le h.need_le)] at haligned
  obtain hneed | hneed := Nat.lt_or_eq_of_le h.need_le
  · rw [Nat.mod_eq_of_lt hneed] at haligned
    omega
  · rw [haligned, hneed, Nat.mod_self]

/-- The digits emitted in all have the value of the bytes read in all. -/
theorem EncoderAt.valBase_bitwiseDigits {k : Nat} {bs read : List Byte} {ds : List Nat} {e : BitEncoder}
    (h : EncoderAt k (8 * bs.length) (beValue read) ds e) (hless : e.nb < e.need) :
    valBase (2 ^ k) (ds ++ bitwiseDigits k bs e) = beValue (read ++ bs) := by
  induction bs generalizing read ds e with
  | nil =>
    have hnb := h.nb_eq_zero hless
    have hacc : e.acc = 0 := by simpa [hnb] using h.acc_lt
    simpa [bitwiseDigits, hnb, hacc] using h.value
  | cons b bs ih =>
    have hloaded := h.loadByte b
    rw [← beValue_concat] at hloaded
    obtain ⟨hdrained, hless'⟩ := hloaded.drain le_rfl
    have hrest := ih hdrained hless'
    simpa [bitwiseDigits] using hrest

theorem valBase_bitwiseDigits {k : Nat} (hk : 0 < k) (bs : List Byte) :
    valBase (2 ^ k)
      (bitwiseDigits k bs { acc := 0, nb := 0, need := firstGroup k (8 * bs.length), started := false }) =
        beValue bs := by
  simpa using (encoderAt_initial hk (8 * bs.length)).valBase_bitwiseDigits (read := []) (firstGroup_pos hk _)

/-- BitwiseEncode in closed form (42_bitwise.md R144): the digits start with no zero and have the right value. -/
theorem bitwiseEncode_eq_digitsOf {f : Frozen} (hk : 0 < f.fk) (b : List Byte) :
    bitwiseEncode f b =
      List.replicate (zeroCount b) f.fleader ++
        (digitsOf (2 ^ f.fk) (beValue (b.drop (zeroCount b)))).map f.char := by
  rw [← valBase_bitwiseDigits hk, digitsOf_valBase_of_minimal (Nat.one_lt_two_pow hk.ne')
    ⟨bitwiseDigits_lt _ (firstGroup_le hk _), bitwiseDigits_head_ne_zero _ rfl⟩]
  rfl

/-- A configuration for a power of two is BITWISE or QUANTIZED, so its characters stand for 1 to 7 bits. -/
theorem fk_range_of_powerOfTwo {f : Frozen} (hf : ConfiguredOk f) (hfn : f.fn = 2 ^ f.fk) : 1 ≤ f.fk ∧ f.fk ≤ 7 := by
  obtain ⟨hmode, hn, -, -, -, -, -, -, hgeneric, hpow, -⟩ := hf
  have hk : f.fk ≠ 0 := by
    intro hzero
    rw [hzero] at hfn
    omega
  have hmode' : f.mode = .bitwise ∨ f.mode = .quantized := by
    cases hm : f.mode with
    | none => exact absurd hm hmode
    | generic => exact absurd (hgeneric hm).1 hk
    | bitwise => exact .inl rfl
    | quantized => exact .inr rfl
  exact (hpow hmode').2

/-- Settles O31: the loop's digits have the value of the bytes after the zero run and start with no zero. -/
theorem bitwiseEncodeClosedForm : Obligations.BitwiseEncodeClosedForm := by
  intro f b hf hfn
  rw [hfn]
  exact bitwiseEncode_eq_digitsOf (fk_range_of_powerOfTwo hf hfn).1 b

end Sys2Proof.Proofs
end

section
/-! Proofs about the reverse map of a well-formed configuration: which characters have a digit, and which (10_state.md
R43). -/

namespace Sys2Proof.Proofs

open Sys2Proof.Machine Sys2Proof.Claims

theorem revLookup_reverseMapOf (alphabet : List Byte) (c : Byte) :
    revLookup (reverseMapOf alphabet) c =
      if c ∈ alphabet then BitVec.ofNat 8 (alphabet.idxOf c) else Config.invalid := by
  simp [revLookup, reverseMapOf, c.isLt]

theorem fn_range_of_configured {f : Frozen} (hf : ConfiguredOk f) : 2 ≤ f.fn ∧ f.fn ≤ 254 := by
  obtain ⟨-, hlow, hhigh, -⟩ := hf
  exact ⟨hlow, hhigh⟩

theorem digitValue_of_mem {f : Frozen} (hf : ConfiguredOk f) {c : Byte} (hc : c ∈ f.falpha) :
    f.digitValue c = f.falpha.idxOf c := by
  obtain ⟨-, -, hle, hlen, -, -, hrev, -⟩ := hf
  have hlt := List.idxOf_lt_length_of_mem hc
  rw [Frozen.digitValue, hrev, revLookup_reverseMapOf, if_pos hc, BitVec.toNat_ofNat]
  omega

theorem digitValue_lt {f : Frozen} (hf : ConfiguredOk f) {c : Byte} (hc : c ∈ f.falpha) : f.digitValue c < f.fn := by
  rw [digitValue_of_mem hf hc]
  obtain ⟨-, -, -, hlen, -⟩ := hf
  exact hlen ▸ List.idxOf_lt_length_of_mem hc

/-- INVALID is no index of an alphabet of at most 254 characters. -/
theorem digit_of_mem {f : Frozen} (hf : ConfiguredOk f) {c : Byte} (hc : c ∈ f.falpha) :
    f.digit c = some (f.digitValue c) := by
  have hlt := digitValue_lt hf hc
  obtain ⟨-, hle⟩ := fn_range_of_configured hf
  have hvalid : revLookup f.revmap c ≠ Config.invalid := by
    intro hinvalid
    rw [Frozen.digitValue, hinvalid] at hlt
    have hmax : Config.invalid.toNat = 255 := rfl
    omega
  exact if_neg hvalid

theorem digit_of_notMem {f : Frozen} (hf : ConfiguredOk f) {c : Byte} (hc : c ∉ f.falpha) : f.digit c = none := by
  obtain ⟨-, -, -, -, -, -, hrev, -⟩ := hf
  exact if_pos (by rw [hrev, revLookup_reverseMapOf, if_neg hc])

theorem firstInvalid_cons_of_mem {f : Frozen} (hf : ConfiguredOk f) {c : Byte} (hc : c ∈ f.falpha) (i : Nat)
    (s : List Byte) : firstInvalid f i (c :: s) = firstInvalid f (i + 1) s := by
  rw [firstInvalid, digit_of_mem hf hc]

theorem firstInvalid_cons_of_notMem {f : Frozen} (hf : ConfiguredOk f) {c : Byte} (hc : c ∉ f.falpha) (i : Nat)
    (s : List Byte) : firstInvalid f i (c :: s) = some i := by
  rw [firstInvalid, digit_of_notMem hf hc]

theorem firstInvalid_eq_none_iff {f : Frozen} (hf : ConfiguredOk f) {i : Nat} {s : List Byte} :
    firstInvalid f i s = none ↔ AllValid f s := by
  induction s generalizing i with
  | nil => simp [firstInvalid, AllValid]
  | cons c s ih =>
    by_cases hc : c ∈ f.falpha
    · rw [firstInvalid_cons_of_mem hf hc, ih]
      simp [AllValid, hc]
    · rw [firstInvalid_cons_of_notMem hf hc]
      simp [AllValid, hc]

theorem digitValues_lt {f : Frozen} (hf : ConfiguredOk f) {s : List Byte} (hs : AllValid f s) :
    ∀ d ∈ s.map f.digitValue, d < f.fn :=
  List.forall_mem_map.mpr fun c hc => digitValue_lt hf (hs c hc)

end Sys2Proof.Proofs
end

section
/-! Proofs about BitwiseDecode: the bytes folded out of the digits have the digits' value, but for the bits left over,
and in BitwiseDecode no bit is left over (42_bitwise.md R145, R147, R149). -/

namespace Sys2Proof.Proofs

open Sys2Proof.Machine Sys2Proof.Claims

/-- The fold has written the bytes `out` for digits of value `v`, and holds the bits `acc` of no whole byte. -/
structure FoldAt (v : Nat) (out : List Byte) (acc nb : Nat) : Prop where
  acc_lt : acc < 2 ^ nb
  nb_lt : nb < 8
  value : beValue out * 2 ^ nb + acc = v

/-- Eight bits at the top of the accumulator are written as a byte. -/
theorem FoldAt.of_fullByte {v : Nat} {out : List Byte} {acc nb : Nat} (hacc : acc < 2 ^ nb) (hle : 8 ≤ nb)
    (hlt : nb < 16) (hvalue : beValue out * 2 ^ nb + acc = v) :
    FoldAt v (out ++ [BitVec.ofNat 8 (acc >>> (nb - 8) &&& 0xFF)]) (acc &&& (2 ^ (nb - 8) - 1)) (nb - 8) where
  acc_lt := by
    rw [Nat.and_two_pow_sub_one_eq_mod]
    exact Nat.mod_lt _ (Nat.two_pow_pos _)
  nb_lt := by omega
  value := by
    have hbyte : (BitVec.ofNat 8 (acc >>> (nb - 8) &&& 0xFF)).toNat = acc / 2 ^ (nb - 8) := by
      rw [BitVec.toNat_ofNat, Nat.mod_eq_of_lt (Nat.and_lt_two_pow _ (by decide))]
      exact topGroup_eq hacc hle
    rw [beValue_concat, hbyte, Nat.and_two_pow_sub_one_eq_mod, ← hvalue]
    exact moveGroup_eq _ _ hle

theorem accumulate_cons_of_le {k d acc nb : Nat} (h : 8 ≤ nb + k) (ds : List Nat) :
    accumulate k (d :: ds) acc nb =
      BitVec.ofNat 8 (((acc <<< k) ||| d) >>> (nb + k - 8) &&& 0xFF) ::
        accumulate k ds (((acc <<< k) ||| d) &&& (2 ^ (nb + k - 8) - 1)) (nb + k - 8) := if_pos h

theorem accumulate_cons_of_lt {k d acc nb : Nat} (h : nb + k < 8) (ds : List Nat) :
    accumulate k (d :: ds) acc nb = accumulate k ds ((acc <<< k) ||| d) (nb + k) := if_neg (Nat.not_le_of_lt h)

/-- The bytes written in all have the value of the digits read in all, without the bits left over. -/
theorem FoldAt.beValue_accumulate {k : Nat} (hk : k ≤ 8) {read ds : List Nat} {out : List Byte} {acc nb : Nat}
    (h : FoldAt (valBase (2 ^ k) read) out acc nb) (hds : ∀ d ∈ ds, d < 2 ^ k) :
    beValue (out ++ accumulate k ds acc nb) = valBase (2 ^ k) (read ++ ds) / 2 ^ ((nb + ds.length * k) % 8) := by
  obtain ⟨hacc, hnb, hvalue⟩ := h
  induction ds generalizing read out acc nb with
  | nil =>
    rw [accumulate, List.append_nil, List.append_nil, List.length_nil, Nat.zero_mul, Nat.add_zero,
      Nat.mod_eq_of_lt hnb, ← hvalue, Nat.mul_comm, Nat.mul_add_div (Nat.two_pow_pos _), Nat.div_eq_of_lt hacc,
      Nat.add_zero]
  | cons d ds ih =>
    obtain ⟨hd, hds⟩ := List.forall_mem_cons.mp hds
    have hin : (acc <<< k) ||| d < 2 ^ (nb + k) := shiftIn_lt hacc hd
    have hread : beValue out * 2 ^ (nb + k) + ((acc <<< k) ||| d) = valBase (2 ^ k) (read ++ [d]) := by
      rw [shiftIn_eq hd, valBase_concat, ← hvalue]
      ring
    rw [List.length_cons, Nat.succ_mul]
    obtain hwait | hfull := Nat.lt_or_ge (nb + k) 8
    · have hbits : nb + (ds.length * k + k) = nb + k + ds.length * k := by omega
      rw [accumulate_cons_of_lt hwait, hbits]
      simpa using ih hds hin hwait hread
    · have hbits : nb + (ds.length * k + k) = nb + k - 8 + ds.length * k + 8 := by omega
      obtain ⟨hin', hnb', hread'⟩ := FoldAt.of_fullByte hin hfull (by omega) hread
      rw [accumulate_cons_of_le hfull, hbits, Nat.add_mod_right]
      simpa using ih hds hin' hnb' hread'

theorem bitwiseDecode_of_invalid {f : Frozen} {s : List Byte} {i : Nat}
    (h : firstInvalid f (leaderCount f s) (s.drop (leaderCount f s)) = some i) : bitwiseDecode f s = .invalid i := by
  rw [bitwiseDecode, h]

/-- BitwiseDecode in closed form (42_bitwise.md R149): the buffer is filled up with zero bits in front to whole bytes,
so the digits' value is the buffer's. -/
theorem bitwiseDecode_of_allValid {f : Frozen} (hf : ConfiguredOk f) (hfn : f.fn = 2 ^ f.fk) {s : List Byte}
    (hs : AllValid f (s.drop (leaderCount f s))) :
    bitwiseDecode f s =
      .bytes (List.replicate (leaderCount f s) 0x00 ++
        minBytes (valBase f.fn ((s.drop (leaderCount f s)).map f.digitValue))) := by
  obtain ⟨-, hk⟩ := fk_range_of_powerOfTwo hf hfn
  have hdigits := digitValues_lt hf hs
  rw [bitwiseDecode, (firstInvalid_eq_none_iff hf).mpr hs]
  set rest := s.drop (leaderCount f s)
  set pad := 8 * ((rest.length * f.fk + 7) / 8) - rest.length * f.fk with hpad
  have hstart : FoldAt (valBase (2 ^ f.fk) []) [] 0 pad := ⟨Nat.two_pow_pos _, by omega, by simp⟩
  have hwhole : (pad + (rest.map f.digitValue).length * f.fk) % 8 = 0 := by
    rw [List.length_map]
    omega
  have hvalue := hstart.beValue_accumulate (by omega) (hfn ▸ hdigits)
  rw [hwhole, Nat.pow_zero, Nat.div_one, List.nil_append, List.nil_append, ← hfn] at hvalue
  rw [← hvalue, minBytes_beValue]

/-- Settles O32: the buffer has the digits' value, and its zero run is dropped. -/
theorem bitwiseDecodeClosedForm : Obligations.BitwiseDecodeClosedForm :=
  fun _ _ hf hfn hs => bitwiseDecode_of_allValid hf hfn hs

end Sys2Proof.Proofs
end

section
/-! Proofs about the scratch array's size: the searches find enough digits (40_config.md R119). -/

namespace Sys2Proof.Proofs

open Sys2Proof.Machine

theorem le_pow_leastPower {base target : Nat} {fuel d : Nat} (h : target ≤ base ^ (d + fuel)) :
    target ≤ base ^ leastPower base target fuel d (base ^ d) := by
  induction fuel generalizing d with
  | zero => exact h
  | succ fuel ih =>
    rw [leastPower, ← Nat.pow_succ]
    split
    · assumption
    · exact ih (by rwa [Nat.add_right_comm])

theorem pow_le_pow_encDigits {n : Nat} (hn : 2 ≤ n) (r : Nat) : 256 ^ r ≤ n ^ encDigits r n := by
  refine le_pow_leastPower (base := n) (d := 0) ?_
  calc 256 ^ r = 2 ^ (8 * r) := by rw [Nat.pow_mul]
    _ ≤ n ^ (8 * r) := Nat.pow_le_pow_left hn _
    _ = n ^ (0 + 8 * r) := by rw [Nat.zero_add]

theorem pow_le_pow_decBytes {n : Nat} (hn : n ≤ 256) (r : Nat) : n ^ r ≤ 256 ^ decBytes r n := by
  refine le_pow_leastPower (base := 256) (d := 0) ?_
  rw [Nat.zero_add]
  exact Nat.pow_le_pow_left hn r

end Sys2Proof.Proofs
end

section
/-! Proofs about the big-number converter: the scratch array holds the value of what has been read, so the significant
digits are those of the input's value, and no carry is left over (44_generic.md R180 to R193). -/

namespace Sys2Proof.Proofs

open Sys2Proof.Machine Sys2Proof.Claims

/-- Every digit from place `length` on is zero: the part of the scratch array not used yet (44_generic.md R184). -/
def ZeroFrom (length : Nat) (digits : List Nat) : Prop :=
  ∀ d ∈ digits.drop length, d = 0

theorem zeroFrom_zero {digits : List Nat} : ZeroFrom 0 digits ↔ ∀ d ∈ digits, d = 0 := Iff.rfl

theorem zeroFrom_succ_cons {length d : Nat} {ds : List Nat} : ZeroFrom (length + 1) (d :: ds) ↔ ZeroFrom length ds :=
  Iff.rfl

theorem zeroFrom_tail {length j d : Nat} {ds : List Nat} (h : ZeroFrom (length - j) (d :: ds)) :
    ZeroFrom (length - (j + 1)) ds := by
  rw [Nat.sub_add_eq]
  cases hlen : length - j with
  | zero =>
    rw [hlen] at h
    exact fun x hx => h x (List.mem_cons_of_mem d hx)
  | succ m => rwa [hlen, zeroFrom_succ_cons] at h

theorem ofDigits_of_zeroFrom {n length : Nat} {digits : List Nat} (h : ZeroFrom length digits) :
    Nat.ofDigits n digits = Nat.ofDigits n (digits.take length) := by
  have hdrop : Nat.ofDigits n (digits.drop length) = 0 := by
    rw [List.eq_replicate_of_mem h, Nat.ofDigits_replicate_zero]
  conv_lhs => rw [← List.take_append_drop length digits]
  rw [Nat.ofDigits_append, hdrop, Nat.mul_zero, Nat.add_zero]

theorem propagate_stop {mul radix length carry j d : Nat} {ds : List Nat} (h : ¬ (carry ≠ 0 ∨ j < length)) :
    propagate mul radix length carry j (d :: ds) = { digits := d :: ds, carry := carry, used := j } := if_neg h

theorem propagate_go {mul radix length carry j d : Nat} {ds : List Nat} (h : carry ≠ 0 ∨ j < length) :
    propagate mul radix length carry j (d :: ds) =
      { propagate mul radix length ((carry + mul * d) / radix) (j + 1) ds with
        digits := (carry + mul * d) % radix ::
          (propagate mul radix length ((carry + mul * d) / radix) (j + 1) ds).digits } := if_pos h

/-- Propagation multiplies the array's value by `mul` and adds the carry that came in; where it stops early the carry
is 0 and only zeros are left (44_generic.md R182, R188). -/
theorem propagate_value {mul radix length carry j : Nat} {digits : List Nat} (h : ZeroFrom (length - j) digits) :
    Nat.ofDigits radix (propagate mul radix length carry j digits).digits +
        radix ^ digits.length * (propagate mul radix length carry j digits).carry =
      carry + mul * Nat.ofDigits radix digits := by
  induction digits generalizing carry j with
  | nil => simp [propagate]
  | cons d ds ih =>
    by_cases hgo : carry ≠ 0 ∨ j < length
    · have hrest := ih (carry := (carry + mul * d) / radix) (zeroFrom_tail h)
      rw [propagate_go hgo]
      generalize propagate mul radix length ((carry + mul * d) / radix) (j + 1) ds = p at hrest
      rw [Nat.ofDigits_cons, Nat.ofDigits_cons, List.length_cons]
      calc (carry + mul * d) % radix + radix * Nat.ofDigits radix p.digits + radix ^ (ds.length + 1) * p.carry
          = (carry + mul * d) % radix + radix * (Nat.ofDigits radix p.digits + radix ^ ds.length * p.carry) := by ring
        _ = (carry + mul * d) % radix + radix * ((carry + mul * d) / radix) +
              radix * (mul * Nat.ofDigits radix ds) := by rw [hrest]; ring
        _ = carry + mul * (d + radix * Nat.ofDigits radix ds) := by rw [Nat.mod_add_div]; ring
    · rw [propagate_stop hgo]
      have hcarry : carry = 0 := by omega
      have hcovered : length - j = 0 := by omega
      rw [hcovered] at h
      rw [ofDigits_of_zeroFrom h, hcarry]
      simp

theorem propagate_length (mul radix length carry j : Nat) (digits : List Nat) :
    (propagate mul radix length carry j digits).digits.length = digits.length := by
  induction digits generalizing carry j with
  | nil => rfl
  | cons d ds ih =>
    by_cases hgo : carry ≠ 0 ∨ j < length
    · simp [propagate_go hgo, ih]
    · simp [propagate_stop hgo]

/-- The used length covers every digit the propagation has written. -/
theorem propagate_zeroFrom {mul radix length carry j : Nat} {digits : List Nat} (h : ZeroFrom (length - j) digits) :
    j ≤ (propagate mul radix length carry j digits).used ∧
      ZeroFrom ((propagate mul radix length carry j digits).used - j)
        (propagate mul radix length carry j digits).digits := by
  induction digits generalizing carry j with
  | nil => simp [propagate, ZeroFrom]
  | cons d ds ih =>
    by_cases hgo : carry ≠ 0 ∨ j < length
    · obtain ⟨hused, hzero⟩ := ih (carry := (carry + mul * d) / radix) (zeroFrom_tail h)
      rw [propagate_go hgo]
      generalize propagate mul radix length ((carry + mul * d) / radix) (j + 1) ds = p at hused hzero
      have hlen : p.used - j = p.used - (j + 1) + 1 := by omega
      refine ⟨Nat.le_of_succ_le hused, ?_⟩
      rwa [hlen, zeroFrom_succ_cons]
    · have hcovered : length - j = 0 := by omega
      rw [hcovered] at h
      rw [propagate_stop hgo, Nat.sub_self]
      exact ⟨le_rfl, h⟩

/-- The scratch array holds, in base `radix` and within its used length, the value of the base-`mul` digits read. -/
structure ScratchAt (mul radix : Nat) (read digits : List Nat) (length : Nat) : Prop where
  digits_lt : ∀ d ∈ digits, d < radix
  unused : ZeroFrom length digits
  value : Nat.ofDigits radix digits = valBase mul read

theorem scratchAt_initial (mul : Nat) {radix : Nat} (hradix : 0 < radix) (size : Nat) :
    ScratchAt mul radix [] (List.replicate size 0) 0 where
  digits_lt := by simp [hradix]
  unused := by simp [zeroFrom_zero]
  value := by simp [Nat.ofDigits_replicate_zero]

/-- One digit more: its value goes in, and no carry is left over where the array has room for the new value
(44_generic.md R182, R193). -/
theorem ScratchAt.after_propagate {mul radix length x : Nat} {read digits : List Nat}
    (h : ScratchAt mul radix read digits length) (hradix : 0 < radix)
    (hroom : valBase mul (read ++ [x]) < radix ^ digits.length) :
    (propagate mul radix length x 0 digits).carry = 0 ∧
      ScratchAt mul radix (read ++ [x]) (propagate mul radix length x 0 digits).digits
        (propagate mul radix length x 0 digits).used := by
  have hvalue := propagate_value (mul := mul) (radix := radix) (carry := x) (j := 0) h.unused
  obtain ⟨-, hunused⟩ := propagate_zeroFrom (mul := mul) (radix := radix) (carry := x) (j := 0) h.unused
  rw [h.value, Nat.add_comm x, ← valBase_concat] at hvalue
  have hcarry : (propagate mul radix length x 0 digits).carry = 0 := by
    by_contra hne
    have hge := Nat.le_mul_of_pos_right (radix ^ digits.length) (Nat.pos_of_ne_zero hne)
    omega
  rw [hcarry, Nat.mul_zero, Nat.add_zero] at hvalue
  exact ⟨hcarry, propagate_digits_lt hradix h.digits_lt x 0, hunused, hvalue⟩

/-- The result is read out without leading zeros (44_generic.md R184, R190). -/
theorem ScratchAt.significant_eq {mul radix length : Nat} {read digits : List Nat}
    (h : ScratchAt mul radix read digits length) (hradix : 1 < radix) :
    significant digits length = digitsOf radix (valBase mul read) := by
  have hlt : ∀ d ∈ (digits.take length).reverse, d < radix := fun d hd =>
    h.digits_lt d (List.mem_of_mem_take (List.mem_reverse.mp hd))
  rw [← h.value, ofDigits_of_zeroFrom h.unused, ← List.reverse_reverse (digits.take length), ← valBase_eq_ofDigits,
    digitsOf_valBase hradix hlt]
  rfl

/-- An array with room for `size` base-n digits has room for a shorter sequence of them. -/
theorem valBase_lt_of_room {n cap size : Nat} {t : List Nat} (hn : 1 < n) (ht : ∀ d ∈ t, d < n)
    (hsize : t.length ≤ size) (hcap : n ^ size ≤ cap) : valBase n t < cap :=
  calc valBase n t < n ^ t.length := valBase_lt hn ht
    _ ≤ n ^ size := Nat.pow_le_pow_right (Nat.zero_lt_of_lt hn) hsize
    _ ≤ cap := hcap

theorem ScratchAt.genericFold_eq {mul radix length : Nat} {read xs digits : List Nat}
    (h : ScratchAt mul radix read digits length) (hmul : 1 < mul) (hradix : 1 < radix)
    (hlt : ∀ d ∈ read ++ xs, d < mul) (hcap : mul ^ (read ++ xs).length ≤ radix ^ digits.length) :
    genericFold mul radix xs digits length = some (digitsOf radix (valBase mul (read ++ xs))) := by
  induction xs generalizing read digits length with
  | nil => rw [genericFold, h.significant_eq hradix, List.append_nil]
  | cons x xs ih =>
    rw [List.append_cons] at hlt hcap ⊢
    obtain ⟨hread, -⟩ := List.forall_mem_append.mp hlt
    have hroom : valBase mul (read ++ [x]) < radix ^ digits.length :=
      valBase_lt_of_room hmul hread (by simp) hcap
    obtain ⟨hcarry, hnext⟩ := h.after_propagate (Nat.zero_lt_of_lt hradix) hroom
    rw [genericFold, hcarry, if_neg (by decide)]
    exact ih hnext hlt (by rwa [propagate_length])

/-- GenericEncode in closed form (44_generic.md R185). -/
theorem genericEncode_eq_digitsOf {f : Frozen} (hn : 2 ≤ f.fn) (b : List Byte) :
    genericEncode f b =
      some (List.replicate (zeroCount b) f.fleader ++
        (digitsOf f.fn (beValue (b.drop (zeroCount b)))).map f.char) := by
  have hfold : ∀ rest : List Byte,
      genericFold 256 f.fn (rest.map BitVec.toNat) (List.replicate (encDigits rest.length f.fn + 1) 0) 0 =
        some (digitsOf f.fn (beValue rest)) := by
    intro rest
    have hroom : 256 ^ rest.length ≤ f.fn ^ (encDigits rest.length f.fn + 1) :=
      (pow_le_pow_encDigits hn _).trans (Nat.pow_le_pow_right (Nat.zero_lt_of_lt hn) (Nat.le_succ _))
    rw [(scratchAt_initial 256 (Nat.zero_lt_of_lt hn) _).genericFold_eq (by decide) hn
      (List.forall_mem_map.mpr fun x _ => x.isLt) (by simpa using hroom), List.nil_append, beValue_eq_valBase]
  rw [genericEncode, hfold]

/-- The character loop ends at the first invalid character, and else with the bytes of the whole string's value. -/
theorem genericDecodeLoop_eq {f : Frozen} (hf : ConfiguredOk f) (z : Nat) {i length : Nat} {read s : List Byte}
    {digits : List Nat} (h : ScratchAt f.fn 256 (read.map f.digitValue) digits length) (hread : AllValid f read)
    (hcap : f.fn ^ (read ++ s).length ≤ 256 ^ digits.length) :
    genericDecodeLoop f z i s digits length =
      (firstInvalid f i s).elim
        (.bytes (List.replicate z 0 ++ minBytes (valBase f.fn ((read ++ s).map f.digitValue)))) .invalid := by
  induction s generalizing i read digits length with
  | nil =>
    rw [genericDecodeLoop, h.significant_eq (by decide), List.append_nil]
    rfl
  | cons c s ih =>
    by_cases hc : c ∈ f.falpha
    · have hread' : AllValid f (read ++ [c]) := List.forall_mem_append.mpr ⟨hread, by simpa [AllValid] using hc⟩
      rw [List.append_cons] at hcap ⊢
      obtain ⟨hn, -⟩ := fn_range_of_configured hf
      have hroom : valBase f.fn ((read ++ [c]).map f.digitValue) < 256 ^ digits.length :=
        valBase_lt_of_room hn (digitValues_lt hf hread') (by simp) hcap
      rw [List.map_append] at hroom
      obtain ⟨hcarry, hnext⟩ := h.after_propagate (by decide) hroom
      rw [firstInvalid_cons_of_mem hf hc, genericDecodeLoop, digit_of_mem hf hc]
      simp only [hcarry, ne_eq, not_true_eq_false, if_false]
      exact ih (by simpa using hnext) hread' (by rwa [propagate_length])
    · rw [firstInvalid_cons_of_notMem hf hc, genericDecodeLoop, digit_of_notMem hf hc]
      rfl

/-- GenericDecode in closed form (44_generic.md R189, R191). -/
theorem genericDecode_eq {f : Frozen} (hf : ConfiguredOk f) (s : List Byte) :
    genericDecode f s =
      (firstInvalid f (leaderCount f s) (s.drop (leaderCount f s))).elim
        (.bytes (List.replicate (leaderCount f s) 0 ++
          minBytes (valBase f.fn ((s.drop (leaderCount f s)).map f.digitValue)))) .invalid := by
  obtain ⟨-, hn⟩ := fn_range_of_configured hf
  have hroom : f.fn ^ (s.drop (leaderCount f s)).length ≤
      256 ^ (decBytes (s.drop (leaderCount f s)).length f.fn + 1) :=
    (pow_le_pow_decBytes (by omega) _).trans (Nat.pow_le_pow_right (by decide) (Nat.le_succ _))
  exact genericDecodeLoop_eq hf _ (read := []) (scratchAt_initial f.fn (by decide) _) nofun (by simpa using hroom)

/-- Settles O35: both paths have the same closed form, and both end at the first invalid character. -/
theorem bitwiseAndGenericPathsAgree : Obligations.BitwiseAndGenericPathsAgree := by
  intro f hf hfn
  constructor
  · intro b
    obtain ⟨hn, -⟩ := fn_range_of_configured hf
    rw [genericEncode_eq_digitsOf hn, bitwiseEncodeClosedForm f b hf hfn]
  · intro s
    rw [genericDecode_eq hf]
    cases hfirst : firstInvalid f (leaderCount f s) (s.drop (leaderCount f s)) with
    | none => exact (bitwiseDecode_of_allValid hf hfn ((firstInvalid_eq_none_iff hf).mp hfirst)).symm
    | some i => exact (bitwiseDecode_of_invalid hfirst).symm

end Sys2Proof.Proofs
end

section
/-! Proofs about the alphabet indexer: digits and characters of a well-formed configuration are inverse to each other
(10_state.md R43; 42_bitwise.md R142). -/

namespace Sys2Proof.Proofs

open Sys2Proof.Machine Sys2Proof.Claims

theorem char_eq_getElem {f : Frozen} {d : Nat} (hd : d < f.falpha.length) : f.char d = f.falpha[d] :=
  List.getD_eq_getElem _ _ hd

theorem char_mem {f : Frozen} (hf : ConfiguredOk f) {d : Nat} (hd : d < f.fn) : f.char d ∈ f.falpha := by
  obtain ⟨-, -, -, hlen, -⟩ := hf
  rw [char_eq_getElem (hlen ▸ hd)]
  exact List.getElem_mem _

theorem digitValue_char {f : Frozen} (hf : ConfiguredOk f) {d : Nat} (hd : d < f.fn) : f.digitValue (f.char d) = d := by
  rw [digitValue_of_mem hf (char_mem hf hd)]
  obtain ⟨-, -, -, hlen, hnodup, -⟩ := hf
  rw [char_eq_getElem (hlen ▸ hd)]
  exact hnodup.idxOf_getElem d _

theorem allValid_map_char {f : Frozen} (hf : ConfiguredOk f) {ds : List Nat} (hds : ∀ d ∈ ds, d < f.fn) :
    AllValid f (ds.map f.char) :=
  List.forall_mem_map.mpr fun d hd => char_mem hf (hds d hd)

theorem map_digitValue_map_char {f : Frozen} (hf : ConfiguredOk f) {ds : List Nat} (hds : ∀ d ∈ ds, d < f.fn) :
    (ds.map f.char).map f.digitValue = ds := by
  rw [List.map_map]
  exact (List.map_congr_left fun d hd => digitValue_char hf (hds d hd)).trans (List.map_id ds)

theorem pad_notMem_of_allValid {f : Frozen} (hf : ConfiguredOk f) (hmode : f.mode = .quantized) {s : List Byte}
    (hs : AllValid f s) : Config.pad ∉ s := by
  obtain ⟨-, -, -, -, -, -, -, -, -, -, hpad⟩ := hf
  exact fun hmem => hpad hmode (hs _ hmem)

end Sys2Proof.Proofs
end

section
/-! Proofs about QuantEncode's digits: with the bits left in the accumulator they always have the value of the bytes
read, and at the end zero bits fill the last group (43_quantized.md R160 to R162). -/

namespace Sys2Proof.Proofs

open Sys2Proof.Machine Sys2Proof.Claims

/-- `ds` are the k-bit digits of `b` from its first bit on, zero bits filling the last one up (43_quantized.md R161,
R162). -/
structure PaddedDigits (k : Nat) (b : List Byte) (ds : List Nat) : Prop where
  digits_lt : ∀ d ∈ ds, d < 2 ^ k
  covers : 8 * b.length ≤ k * ds.length
  spare_lt : k * ds.length < 8 * b.length + k
  value : valBase (2 ^ k) ds = beValue b * 2 ^ (k * ds.length - 8 * b.length)

/-- The encoder has emitted `ds` for the bytes `read`, and holds the other `nb` bits in `acc` (43_quantized.md R160). -/
structure QuantAt (k : Nat) (read : List Byte) (ds : List Nat) (acc nb : Nat) : Prop where
  acc_lt : acc < 2 ^ nb
  digits_lt : ∀ d ∈ ds, d < 2 ^ k
  bits : k * ds.length + nb = 8 * read.length
  value : valBase (2 ^ k) ds * 2 ^ nb + acc = beValue read

theorem quantAt_initial (k : Nat) : QuantAt k [] [] 0 0 where
  acc_lt := by simp
  digits_lt := nofun
  bits := rfl
  value := by simp

/-- The next byte enters the accumulator from below. -/
theorem QuantAt.loadByte {k acc nb : Nat} {read : List Byte} {ds : List Nat} (h : QuantAt k read ds acc nb)
    (b : Byte) : QuantAt k (read ++ [b]) ds ((acc <<< 8) ||| b.toNat) (nb + 8) where
  acc_lt := shiftIn_lt h.acc_lt b.isLt
  digits_lt := h.digits_lt
  bits := by
    have hbits := h.bits
    rw [List.length_append, List.length_singleton]
    omega
  value := by
    rw [shiftIn_eq b.isLt, beValue_concat, ← h.value]
    ring

/-- The top k bits leave the accumulator as a digit. -/
theorem QuantAt.takeGroup {k acc nb : Nat} {read : List Byte} {ds : List Nat} (h : QuantAt k read ds acc nb)
    (hgroup : k ≤ nb) :
    QuantAt k read (ds ++ [(acc >>> (nb - k)) &&& (2 ^ k - 1)]) (acc &&& (2 ^ (nb - k) - 1)) (nb - k) where
  acc_lt := Nat.and_lt_two_pow _ (Nat.sub_one_lt (Nat.two_pow_pos _).ne')
  digits_lt := List.forall_mem_append.mpr ⟨h.digits_lt,
    List.forall_mem_singleton.mpr (Nat.and_lt_two_pow _ (Nat.sub_one_lt (Nat.two_pow_pos _).ne'))⟩
  bits := by
    have hbits := h.bits
    rw [List.length_append, List.length_singleton, Nat.mul_succ]
    omega
  value := by
    rw [valBase_concat, topGroup_eq h.acc_lt hgroup, Nat.and_two_pow_sub_one_eq_mod, moveGroup_eq _ _ hgroup, h.value]

theorem quantDrain_wait {f : Frozen} {nb : Nat} (h : ¬ f.fk ≤ nb) (fuel acc : Nat) :
    quantDrain f fuel acc nb = ([], acc, nb) := by
  cases fuel with
  | zero => rfl
  | succ fuel => exact if_neg h

theorem quantDrain_group {f : Frozen} {nb : Nat} (h : f.fk ≤ nb) (fuel acc : Nat) :
    quantDrain f (fuel + 1) acc nb =
      (((acc >>> (nb - f.fk)) &&& f.fmask) :: (quantDrain f fuel (acc &&& (2 ^ (nb - f.fk) - 1)) (nb - f.fk)).1,
        (quantDrain f fuel (acc &&& (2 ^ (nb - f.fk) - 1)) (nb - f.fk)).2) := if_pos h

/-- The inner loop takes digits off until less than a group is left. -/
theorem QuantAt.drain {f : Frozen} (hk : 0 < f.fk) (hmask : f.fmask = 2 ^ f.fk - 1) {fuel acc nb : Nat}
    {read : List Byte} {ds : List Nat} (h : QuantAt f.fk read ds acc nb) (hfuel : nb ≤ fuel) :
    QuantAt f.fk read (ds ++ (quantDrain f fuel acc nb).1) (quantDrain f fuel acc nb).2.1
        (quantDrain f fuel acc nb).2.2 ∧
      (quantDrain f fuel acc nb).2.2 < f.fk := by
  induction fuel generalizing ds acc nb with
  | zero => exact ⟨by simpa [quantDrain] using h, Nat.lt_of_le_of_lt hfuel hk⟩
  | succ fuel ih =>
    by_cases hgroup : f.fk ≤ nb
    · have hrest := ih (h.takeGroup hgroup) (by omega)
      rw [quantDrain_group hgroup, hmask]
      simpa using hrest
    · rw [quantDrain_wait hgroup]
      exact ⟨by simpa using h, Nat.lt_of_not_le hgroup⟩

/-- When the bytes end, the bits left over are shifted up to fill one more group (43_quantized.md R162). -/
theorem QuantAt.finish {f : Frozen} (hmask : f.fmask = 2 ^ f.fk - 1) {acc nb : Nat} {read : List Byte} {ds : List Nat}
    (h : QuantAt f.fk read ds acc nb) (hless : nb < f.fk) :
    PaddedDigits f.fk read (ds ++ quantDigits f [] acc nb) := by
  obtain ⟨hacc, hds, hbits, hvalue⟩ := h
  by_cases hrest : 0 < nb
  · have hpow : 2 ^ nb * 2 ^ (f.fk - nb) = 2 ^ f.fk := by rw [← Nat.pow_add, Nat.add_sub_cancel' hless.le]
    have hlt : acc * 2 ^ (f.fk - nb) < 2 ^ f.fk := hpow ▸ Nat.mul_lt_mul_of_pos_right hacc (Nat.two_pow_pos _)
    have hlast : quantDigits f [] acc nb = [acc * 2 ^ (f.fk - nb)] := by
      rw [quantDigits, if_pos hrest, hmask, Nat.and_two_pow_sub_one_eq_mod, Nat.shiftLeft_eq, Nat.mod_eq_of_lt hlt]
    have hlen : f.fk * (ds ++ [acc * 2 ^ (f.fk - nb)]).length = f.fk * ds.length + f.fk := by
      rw [List.length_append, List.length_singleton, Nat.mul_succ]
    have hspare : f.fk * ds.length + f.fk - 8 * read.length = f.fk - nb := by omega
    rw [hlast]
    refine ⟨List.forall_mem_append.mpr ⟨hds, List.forall_mem_singleton.mpr hlt⟩, by omega, by omega, ?_⟩
    rw [hlen, hspare, valBase_concat, ← hvalue, ← hpow]
    ring
  · obtain rfl : nb = 0 := by omega
    obtain rfl : acc = 0 := by simpa using hacc
    have hlast : quantDigits f [] 0 0 = [] := rfl
    rw [hlast, List.append_nil]
    refine ⟨hds, by omega, by omega, ?_⟩
    rw [← hvalue, ← hbits]
    simp

theorem QuantAt.paddedDigits {f : Frozen} (hk : 0 < f.fk) (hmask : f.fmask = 2 ^ f.fk - 1) {acc nb : Nat}
    {bs read : List Byte} {ds : List Nat} (h : QuantAt f.fk read ds acc nb) (hless : nb < f.fk) :
    PaddedDigits f.fk (read ++ bs) (ds ++ quantDigits f bs acc nb) := by
  induction bs generalizing read ds acc nb with
  | nil => simpa using h.finish hmask hless
  | cons b bs ih =>
    obtain ⟨hdrained, hless'⟩ := (h.loadByte b).drain hk hmask le_rfl
    simpa [quantDigits] using ih hdrained hless'

/-- A QUANTIZED character stands for 1 to 7 bits. -/
theorem fk_range_of_quantized {f : Frozen} (hf : ConfiguredOk f) (hmode : f.mode = .quantized) :
    f.fn = 2 ^ f.fk ∧ 1 ≤ f.fk ∧ f.fk ≤ 7 := by
  obtain ⟨-, -, -, -, -, -, -, -, -, hpow, -⟩ := hf
  exact hpow (.inr hmode)

theorem paddedDigits_quantDigits {f : Frozen} (hf : ConfiguredOk f) (hmode : f.mode = .quantized) (b : List Byte) :
    PaddedDigits f.fk b (quantDigits f b 0 0) := by
  obtain ⟨-, hk, -⟩ := fk_range_of_quantized hf hmode
  obtain ⟨-, -, -, -, -, -, -, hmask, -⟩ := hf
  simpa using (quantAt_initial f.fk).paddedDigits hk hmask (bs := b) hk

end Sys2Proof.Proofs
end

section
/-! Proofs about pads: how many QuantEncode appends, and that QuantDecode strips them (43_quantized.md R163, R164,
R166). -/

namespace Sys2Proof.Proofs

open Sys2Proof.Machine Sys2Proof.Claims

/-- The quotient rounded up is the least number of groups of `b` that hold `a`. -/
theorem ceilDiv_eq_iff {a b m : Nat} (hb : 0 < b) : ceilDiv a b = m ↔ a ≤ b * m ∧ b * m < a + b := by
  rw [ceilDiv, Nat.div_eq_iff hb, Nat.mul_comm m]
  omega

theorem groupChars_range (k : Nat) : 0 < groupChars k ∧ groupChars k ≤ 8 :=
  ⟨Nat.div_pos (Nat.gcd_le_right k (by decide)) (Nat.gcd_pos_of_pos_right k (by decide)), Nat.div_le_self _ _⟩

/-- A whole number of groups is a whole number of bytes (43_quantized.md R164). -/
theorem mul_mod_eight_eq_zero_iff (k len : Nat) : len * k % 8 = 0 ↔ groupChars k ∣ len := by
  rw [groupChars, Nat.div_dvd_iff_dvd_mul (Nat.gcd_dvd_right k 8) (Nat.gcd_pos_of_pos_right k (by decide)),
    Nat.gcd_comm, Nat.dvd_gcd_mul_iff_dvd_mul, Nat.mul_comm k, Nat.dvd_iff_mod_eq_zero]

/-- The number of pads after `len` characters (43_quantized.md R164). -/
def padCount (k len : Nat) : Nat :=
  groupChars k * ceilDiv len (groupChars k) - len

theorem len_add_padCount (k len : Nat) : len + padCount k len = groupChars k * ceilDiv len (groupChars k) :=
  Nat.add_sub_cancel' ((ceilDiv_eq_iff (groupChars_range k).1).mp rfl).1

theorem padCount_lt (k len : Nat) : padCount k len < groupChars k := by
  obtain ⟨hpos, -⟩ := groupChars_range k
  obtain ⟨-, hlt⟩ := (ceilDiv_eq_iff (a := len) hpos).mp rfl
  rw [padCount]
  omega

/-- A pad is appended as long as the last group is not whole. -/
theorem quantPads_eq_replicate {k fuel len n : Nat} (hfuel : n ≤ fuel) (hn : n < groupChars k)
    (hwhole : groupChars k ∣ len + n) : quantPads k fuel len = List.replicate n Config.pad := by
  induction n generalizing fuel len with
  | zero =>
    cases fuel with
    | zero => rfl
    | succ fuel => exact if_neg (not_not.mpr ((mul_mod_eight_eq_zero_iff k len).mpr hwhole))
  | succ n ih =>
    obtain ⟨fuel, rfl⟩ := Nat.exists_eq_succ_of_ne_zero (Nat.ne_zero_of_lt hfuel)
    have hopen : ¬ groupChars k ∣ len := fun hdvd =>
      Nat.not_dvd_of_pos_of_lt n.succ_pos hn ((Nat.dvd_add_right hdvd).mp hwhole)
    rw [quantPads, if_pos ((mul_mod_eight_eq_zero_iff k len).not.mpr hopen),
      ih (Nat.le_of_succ_le_succ hfuel) (Nat.lt_of_succ_lt hn) (by rwa [Nat.succ_add_eq_add_succ]), List.replicate_succ]

theorem quantPads_eq (k len : Nat) : quantPads k 8 len = List.replicate (padCount k len) Config.pad := by
  have hlt := padCount_lt k len
  have hwhole : groupChars k ∣ len + padCount k len := len_add_padCount k len ▸ Nat.dvd_mul_right _ _
  exact quantPads_eq_replicate (hlt.le.trans (groupChars_range k).2) hlt hwhole

theorem quantEncode_eq (f : Frozen) (b : List Byte) :
    quantEncode f b =
      (quantDigits f b 0 0).map f.char ++
        List.replicate (padCount f.fk (quantDigits f b 0 0).length) Config.pad := by
  rw [quantEncode, quantPads_eq, List.length_map]

theorem stripPads_append_pads {s : List Byte} (h : Config.pad ∉ s) (n : Nat) :
    stripPads (s ++ List.replicate n Config.pad) = s := by
  have hpads : ∀ c ∈ List.replicate n Config.pad, (c == Config.pad) = true := fun c hc =>
    beq_iff_eq.mpr (List.eq_of_mem_replicate hc)
  have hstop : s.reverse.dropWhile (fun c => c == Config.pad) = s.reverse :=
    List.dropWhile_eq_self_iff.mpr fun hl hpad =>
      h (List.mem_reverse.mp (beq_iff_eq.mp hpad ▸ List.getElem_mem hl))
  rw [stripPads, List.reverse_append, List.reverse_replicate, List.dropWhile_append_of_pos hpads, hstop,
    List.reverse_reverse]

/-- The data digits of an encoding are digits of the alphabet. -/
theorem quantDigits_lt {f : Frozen} (hf : ConfiguredOk f) (hmode : f.mode = .quantized) (b : List Byte) :
    ∀ d ∈ quantDigits f b 0 0, d < f.fn := by
  obtain ⟨hfn, -⟩ := fk_range_of_quantized hf hmode
  rw [hfn]
  exact (paddedDigits_quantDigits hf hmode b).digits_lt

/-- Settles O41: the data characters hold the bytes' bits with less than a character to spare, and the pads fill the
last group. -/
theorem quantEncodeLength : Obligations.QuantEncodeLength := by
  intro f b hf hmode
  obtain ⟨-, hk, -⟩ := fk_range_of_quantized hf hmode
  obtain ⟨-, hcovers, hspare, -⟩ := paddedDigits_quantDigits hf hmode b
  have hdata : dataChars f.fk b.length = (quantDigits f b 0 0).length := (ceilDiv_eq_iff hk).mpr ⟨hcovers, hspare⟩
  have hlen : (quantEncode f b).length =
      groupChars f.fk * ceilDiv (dataChars f.fk b.length) (groupChars f.fk) := by
    rw [quantEncode_eq, List.length_append, List.length_map, List.length_replicate, len_add_padCount, hdata]
  refine ⟨hlen, ?_, _, _, quantEncode_eq f b, ?_, allValid_map_char hf (quantDigits_lt hf hmode b),
    padCount_lt _ _, ?_⟩
  · rw [mul_mod_eight_eq_zero_iff, hlen]
    exact Nat.dvd_mul_right _ _
  · rw [List.length_map, hdata]
  · rw [List.length_map, len_add_padCount, Nat.mul_mod_right]

end Sys2Proof.Proofs
end

section
/-! Proofs about the quantized round trip: the bytes folded out of the digits are as many as the bytes encoded and have
their value (43_quantized.md R165 to R170). -/

namespace Sys2Proof.Proofs

open Sys2Proof.Machine Sys2Proof.Claims

/-- A byte for every 8 bits held or read (43_quantized.md R168). -/
theorem length_accumulate {k : Nat} (hk : k ≤ 8) (ds : List Nat) {acc nb : Nat} (hnb : nb < 8) :
    (accumulate k ds acc nb).length = (nb + k * ds.length) / 8 := by
  induction ds generalizing acc nb with
  | nil => simp [accumulate, Nat.div_eq_of_lt hnb]
  | cons d ds ih =>
    rw [List.length_cons, Nat.mul_succ]
    obtain hwait | hfull := Nat.lt_or_ge (nb + k) 8
    · rw [accumulate_cons_of_lt hwait, ih hwait]
      omega
    · rw [accumulate_cons_of_le hfull, List.length_cons, ih (by omega)]
      omega

/-- The value of a byte sequence and its length determine it. -/
theorem eq_of_beValue_eq {b b' : List Byte} (hlen : b.length = b'.length) (h : beValue b = beValue b') : b = b' := by
  have hbyte : ∀ s : List Byte, ∀ d ∈ (s.map BitVec.toNat).reverse, d < 256 := fun s d hd => by
    obtain ⟨x, -, rfl⟩ := List.mem_map.mp (List.mem_reverse.mp hd)
    exact x.isLt
  rw [beValue_eq_valBase, beValue_eq_valBase, valBase_eq_ofDigits, valBase_eq_ofDigits] at h
  have hrev := Nat.ofDigits_inj_of_len_eq (by decide) (by simpa using hlen) (hbyte b) (hbyte b') h
  exact List.map_injective_iff.mpr (fun _ _ => BitVec.eq_of_toNat_eq) (List.reverse_injective hrev)

/-- Folding the digits back drops just the zero bits that filled the last one up, fewer than a byte. -/
theorem PaddedDigits.accumulate_eq {k : Nat} (hk : k ≤ 8) {b : List Byte} {ds : List Nat} (h : PaddedDigits k b ds) :
    accumulate k ds 0 0 = b := by
  obtain ⟨hds, hcovers, hspare, hvalue⟩ := h
  have hstart : FoldAt (valBase (2 ^ k) []) [] 0 0 := ⟨by simp, by decide, by simp⟩
  have hleft : (0 + ds.length * k) % 8 = k * ds.length - 8 * b.length := by
    rw [Nat.zero_add, Nat.mul_comm]
    omega
  have hfold := hstart.beValue_accumulate hk hds
  rw [hleft, List.nil_append, List.nil_append, hvalue, Nat.mul_div_cancel _ (Nat.two_pow_pos _)] at hfold
  refine eq_of_beValue_eq ?_ hfold
  rw [length_accumulate hk ds (by decide)]
  omega

theorem quantDecode_of_allValid {f : Frozen} (hf : ConfiguredOk f) {s : List Byte} (hs : AllValid f (stripPads s)) :
    quantDecode f s = .bytes (accumulate f.fk ((stripPads s).map f.digitValue) 0 0) := by
  rw [quantDecode, (firstInvalid_eq_none_iff hf).mpr hs]

/-- Settles O40: the strip leaves the data characters, whose digits fold back to the bytes. -/
theorem quantizedRoundTrip : Obligations.QuantizedRoundTrip := by
  intro f b hf hmode
  obtain ⟨-, -, hk⟩ := fk_range_of_quantized hf hmode
  have hlt := quantDigits_lt hf hmode b
  have hvalid : AllValid f ((quantDigits f b 0 0).map f.char) := allValid_map_char hf hlt
  have hstrip : stripPads (quantEncode f b) = (quantDigits f b 0 0).map f.char := by
    rw [quantEncode_eq, stripPads_append_pads (pad_notMem_of_allValid hf hmode hvalid)]
  rw [quantDecode_of_allValid hf (by rwa [hstrip]), hstrip, map_digitValue_map_char hf hlt,
    (paddedDigits_quantDigits hf hmode b).accumulate_eq (by omega)]

end Sys2Proof.Proofs
end

section
/-! Proofs of the big-number converter's closed forms on its own: the scratch array is large enough, so no carry is left
over, and its digits are those of the input's value (44_generic.md R185, R191, R193). -/

namespace Sys2Proof.Proofs

open Sys2Proof.Machine Sys2Proof.Claims

/-- Settles O33: the encoder's base is at least 2, so its scratch array has room and holds the digits of the value. -/
theorem genericEncodeClosedForm : Obligations.GenericEncodeClosedForm := by
  intro f b hf
  obtain ⟨hn, -⟩ := fn_range_of_configured hf
  exact genericEncode_eq_digitsOf hn b

/-- GenericDecode in closed form where every character after the leaders has a digit (44_generic.md R191). -/
theorem genericDecode_of_allValid {f : Frozen} (hf : ConfiguredOk f) {s : List Byte}
    (hs : AllValid f (s.drop (leaderCount f s))) :
    genericDecode f s =
      .bytes (List.replicate (leaderCount f s) 0x00 ++
        minBytes (valBase f.fn ((s.drop (leaderCount f s)).map f.digitValue))) := by
  have hnone : firstInvalid f (leaderCount f s) (s.drop (leaderCount f s)) = none :=
    (firstInvalid_eq_none_iff hf).mpr hs
  rw [genericDecode_eq hf, hnone, Option.elim_none]

/-- Settles O34: with no invalid character the character loop reads the whole string. -/
theorem genericDecodeClosedForm : Obligations.GenericDecodeClosedForm :=
  fun _ _ hf hs => genericDecode_of_allValid hf hs

end Sys2Proof.Proofs
end

section
/-! Proofs about fixed-width digits: the quantized datapath in closed form (43_quantized.md R160 to R169). -/

namespace Sys2Proof.Proofs

open Sys2Proof.Machine Sys2Proof.Claims

theorem fixedDigits_succ (n d v : Nat) : fixedDigits n (d + 1) v = fixedDigits n d (v / n) ++ [v % n] := by
  have hupper : ∀ i ∈ List.range d, v / n ^ (d + 1 - 1 - i) % n = v / n / n ^ (d - 1 - i) % n := by
    intro i hi
    have hexp : d + 1 - 1 - i = d - 1 - i + 1 := by
      have := List.mem_range.mp hi
      omega
    rw [hexp, Nat.pow_succ', Nat.div_div_eq_div_mul]
  rw [fixedDigits, List.range_succ, List.map_append, List.map_congr_left hupper]
  simp [fixedDigits]

@[simp] theorem length_fixedDigits (n d v : Nat) : (fixedDigits n d v).length = d := by
  simp [fixedDigits]

/-- A digit sequence is the one its value has in its length. -/
theorem fixedDigits_valBase {n : Nat} {ds : List Nat} (h : ∀ d ∈ ds, d < n) :
    fixedDigits n ds.length (valBase n ds) = ds := by
  induction ds using List.reverseRecOn with
  | nil => rfl
  | append_singleton ds d ih =>
    obtain ⟨hds, hd⟩ := List.forall_mem_append.mp h
    have hd : d < n := hd d (List.mem_singleton_self d)
    rw [List.length_append, List.length_singleton, fixedDigits_succ, valBase_concat,
      Nat.mul_add_div (Nat.zero_lt_of_lt hd), Nat.div_eq_of_lt hd, Nat.add_zero, ih hds, Nat.mul_add_mod,
      Nat.mod_eq_of_lt hd]

theorem map_ofNat_map_toNat (b : List Byte) : (b.map BitVec.toNat).map (BitVec.ofNat 8) = b := by
  simp [Function.comp_def]

/-- A byte sequence is determined by its value and its length. -/
theorem map_ofNat_fixedDigits_beValue (b : List Byte) :
    (fixedDigits 256 b.length (beValue b)).map (BitVec.ofNat 8) = b := by
  have hdigits : fixedDigits 256 (b.map BitVec.toNat).length (valBase 256 (b.map BitVec.toNat)) =
      b.map BitVec.toNat := fixedDigits_valBase (List.forall_mem_map.mpr fun x _ => x.isLt)
  rw [beValue_eq_valBase, ← List.length_map (f := BitVec.toNat) (as := b), hdigits, map_ofNat_map_toNat]

theorem length_quantDigits {f : Frozen} (hf : ConfiguredOk f) (hmode : f.mode = .quantized) (b : List Byte) :
    (quantDigits f b 0 0).length = dataChars f.fk b.length := by
  obtain ⟨-, hk, -⟩ := fk_range_of_quantized hf hmode
  obtain ⟨-, hcovers, hspare, -⟩ := paddedDigits_quantDigits hf hmode b
  exact ((ceilDiv_eq_iff hk).mpr ⟨hcovers, hspare⟩).symm

/-- Settles O37: the encoder's digits are as many as the data characters, and have the value of the shifted bits. -/
theorem quantEncodeClosedForm : Obligations.QuantEncodeClosedForm := by
  intro f b hf hmode
  obtain ⟨hfn, -⟩ := fk_range_of_quantized hf hmode
  obtain ⟨hlt, -, -, hvalue⟩ := paddedDigits_quantDigits hf hmode b
  rw [← length_quantDigits hf hmode, hfn, ← hvalue, fixedDigits_valBase hlt]
  exact quantEncode_eq f b

/-- Folding k-bit digits keeps the whole bytes of their value. -/
theorem accumulate_eq_fixedDigits {k : Nat} (hk : k ≤ 8) {ds : List Nat} (h : ∀ d ∈ ds, d < 2 ^ k) :
    accumulate k ds 0 0 =
      (fixedDigits 256 (ds.length * k / 8) (valBase (2 ^ k) ds / 2 ^ (ds.length * k % 8))).map (BitVec.ofNat 8) := by
  have hstart : FoldAt (valBase (2 ^ k) []) [] 0 0 := ⟨by simp, by decide, by simp⟩
  have hvalue := hstart.beValue_accumulate hk h
  have hlen := length_accumulate hk ds (acc := 0) (nb := 0) (by decide)
  rw [List.nil_append, List.nil_append, Nat.zero_add] at hvalue
  rw [Nat.zero_add, Nat.mul_comm] at hlen
  rw [← hvalue, ← hlen, map_ofNat_fixedDigits_beValue]

/-- Settles O38: the digits before the pads, all valid, are folded to the whole bytes of their value. -/
theorem quantDecodeClosedForm : Obligations.QuantDecodeClosedForm := by
  intro f s hf hmode hs
  obtain ⟨hfn, -, hk⟩ := fk_range_of_quantized hf hmode
  have hdigits := digitValues_lt hf hs
  rw [hfn] at hdigits
  rw [quantDecode_of_allValid hf hs, accumulate_eq_fixedDigits (by omega) hdigits, List.length_map, hfn]

/-- Settles O39: the strip is the library's split of a list before its longest tail of pads. -/
theorem stripRemovesExactlyTheTrailingPads : Obligations.StripRemovesExactlyTheTrailingPads := by
  intro s
  have hstrip : stripPads s = s.rdropWhile (fun c => c == Config.pad) := rfl
  rw [hstrip]
  constructor
  · have hpads : ∀ c ∈ s.rtakeWhile (fun c => c == Config.pad), c = 0x3D := fun c hc =>
      beq_iff_eq.mp (List.mem_rtakeWhile_imp (p := fun c => c == Config.pad) hc)
    refine ⟨(s.rtakeWhile fun c => c == Config.pad).length, ?_⟩
    rw [← List.eq_replicate_of_mem hpads, List.rdropWhile_append_rtakeWhile]
  · intro hlast
    obtain ⟨hne, hpad⟩ := List.mem_getLast?_eq_getLast hlast
    exact List.rdropWhile_last_not _ s hne (beq_iff_eq.mpr hpad.symm)

end Sys2Proof.Proofs
end

section
/-! Proofs that the datapaths compute the codec: the three decoders and encoders are the closed forms of `codecDecode`
and `codecEncode`, the invalid index included (45_commands.md R202; 42_bitwise.md R144 to R149; 43_quantized.md R160 to
R169; 44_generic.md R185 to R191). -/

namespace Sys2Proof.Proofs

open Sys2Proof.Machine Sys2Proof.Claims

/-! ### The leading run and the rest -/

theorem replicate_leadingRun_append_drop (x : Byte) (s : List Byte) :
    List.replicate (leadingRun x s) x ++ s.drop (leadingRun x s) = s := by
  induction s with
  | nil => rfl
  | cons b bs ih =>
    by_cases hb : b = x
    · subst hb
      simpa [List.replicate_succ] using ih
    · simp [hb]

theorem length_takeWhile_eq_leadingRun (x : Byte) (s : List Byte) :
    (s.takeWhile fun b => b == x).length = leadingRun x s := by
  induction s with
  | nil => rfl
  | cons b bs ih =>
    by_cases hb : b = x
    · subst hb
      simpa using ih
    · simp [hb]

theorem fleader_mem {f : Frozen} (hf : ConfiguredOk f) : f.fleader ∈ f.falpha := by
  obtain ⟨-, -, -, -, -, hhead, -⟩ := hf
  exact List.mem_of_head? hhead

/-! ### The least invalid index -/

/-- The string whose characters are checked: without the trailing pads in QUANTIZED mode (43_quantized.md R166). -/
def checkedString (f : Frozen) (s : List Byte) : List Byte :=
  if f.mode = .quantized then stripPads s else s

theorem checkedString_quantized {f : Frozen} (h : f.mode = .quantized) (s : List Byte) :
    checkedString f s = stripPads s := if_pos h

theorem checkedString_standard {f : Frozen} (h : f.mode ≠ .quantized) (s : List Byte) : checkedString f s = s :=
  if_neg h

theorem firstInvalid_eq_findIdx? {f : Frozen} (hf : ConfiguredOk f) (i : Nat) (s : List Byte) :
    firstInvalid f i s = (s.findIdx? fun c => !f.falpha.contains c).map (· + i) := by
  induction s generalizing i with
  | nil => rfl
  | cons c s ih =>
    by_cases hc : c ∈ f.falpha
    · rw [firstInvalid_cons_of_mem hf hc, ih]
      simp [List.findIdx?_cons, hc, Function.comp_def, Nat.add_assoc, Nat.add_comm 1]
    · rw [firstInvalid_cons_of_notMem hf hc]
      simp [List.findIdx?_cons, hc]

theorem firstInvalid_zero_eq_findIdx? {f : Frozen} (hf : ConfiguredOk f) (s : List Byte) :
    firstInvalid f 0 s = s.findIdx? fun c => !f.falpha.contains c := by
  simp [firstInvalid_eq_findIdx? hf]

theorem firstInvalid_eq_some_iff {f : Frozen} (hf : ConfiguredOk f) (s : List Byte) (i : Nat) :
    firstInvalid f 0 s = some i ↔ LeastInvalid f s i := by
  rw [firstInvalid_zero_eq_findIdx? hf, List.findIdx?_eq_some_iff_getElem]
  constructor
  · rintro ⟨hi, hbad, hbefore⟩
    refine ⟨⟨s[i], List.getElem?_eq_getElem hi, by simpa using hbad⟩, fun j hj c hc => ?_⟩
    obtain ⟨hjlen, rfl⟩ := List.getElem?_eq_some_iff.mp hc
    simpa using hbefore j hj
  · rintro ⟨⟨c, hc, hbad⟩, hbefore⟩
    obtain ⟨hi, rfl⟩ := List.getElem?_eq_some_iff.mp hc
    refine ⟨hi, by simpa using hbad, fun j hj => ?_⟩
    simpa using hbefore j hj _ (List.getElem?_eq_getElem (hj.trans hi))

theorem firstInvalid_leaders_append {f : Frozen} (hf : ConfiguredOk f) (i z : Nat) (s : List Byte) :
    firstInvalid f i (List.replicate z f.fleader ++ s) = firstInvalid f (i + z) s := by
  induction z generalizing i with
  | zero => rfl
  | succ z ih =>
    rw [List.replicate_succ, List.cons_append, firstInvalid_cons_of_mem hf (fleader_mem hf), ih, Nat.add_right_comm,
      Nat.add_assoc]

/-- The leaders are characters of the alphabet, so checking may start after them. -/
theorem firstInvalid_drop_leaders {f : Frozen} (hf : ConfiguredOk f) (s : List Byte) :
    firstInvalid f (leaderCount f s) (s.drop (leaderCount f s)) = firstInvalid f 0 s := by
  conv_rhs => rw [← replicate_leadingRun_append_drop f.fleader s, firstInvalid_leaders_append hf, Nat.zero_add]
  rfl

theorem allValid_drop {f : Frozen} {s : List Byte} (h : AllValid f s) (z : Nat) : AllValid f (s.drop z) :=
  fun c hc => h c (List.mem_of_mem_drop hc)

/-! ### The decoders -/

/-- The bytes of a string of valid characters in GENERIC and BITWISE mode (42_bitwise.md R149; 44_generic.md R191). -/
def standardBytes (f : Frozen) (s : List Byte) : List Byte :=
  List.replicate (leaderCount f s) 0x00 ++ minBytes (valBase f.fn ((s.drop (leaderCount f s)).map f.digitValue))

/-- The bytes of the valid characters before the pads in QUANTIZED mode (43_quantized.md R168). -/
def quantizedBytes (f : Frozen) (data : List Byte) : List Byte :=
  (fixedDigits 256 (data.length * f.fk / 8)
    (valBase f.fn (data.map f.digitValue) / 2 ^ (data.length * f.fk % 8))).map (BitVec.ofNat 8)

/-- The three modes of a configuration in force. -/
theorem mode_cases {f : Frozen} (hf : ConfiguredOk f) :
    f.mode = .generic ∨ (f.mode = .bitwise ∧ f.fn = 2 ^ f.fk) ∨ f.mode = .quantized := by
  obtain ⟨hmode, -, -, -, -, -, -, -, -, hpow, -⟩ := hf
  cases h : f.mode with
  | none => exact absurd h hmode
  | generic => exact .inl rfl
  | bitwise => exact .inr (.inl ⟨rfl, (hpow (.inl h)).1⟩)
  | quantized => exact .inr (.inr rfl)

theorem decResult_of_invalid {f : Frozen} (hf : ConfiguredOk f) {s : List Byte} {i : Nat}
    (h : firstInvalid f 0 (checkedString f s) = some i) : decResult f s = some (.invalid i) := by
  obtain hmode | ⟨hmode, -⟩ | hmode := mode_cases hf
  · rw [checkedString_standard (by simp [hmode]), ← firstInvalid_drop_leaders hf] at h
    simp [decResult, hmode, genericDecode_eq hf, h]
  · rw [checkedString_standard (by simp [hmode]), ← firstInvalid_drop_leaders hf] at h
    simp [decResult, hmode, bitwiseDecode_of_invalid h]
  · rw [checkedString_quantized hmode] at h
    simp [decResult, hmode, quantDecode, h]

theorem decResult_standard {f : Frozen} (hf : ConfiguredOk f) (hmode : f.mode ≠ .quantized) {s : List Byte}
    (hs : AllValid f s) : decResult f s = some (.bytes (standardBytes f s)) := by
  have hrest := allValid_drop hs (leaderCount f s)
  obtain h | ⟨h, hfn⟩ | h := mode_cases hf
  · rw [decResult, h]
    exact congrArg some (genericDecode_of_allValid hf hrest)
  · rw [decResult, h]
    exact congrArg some (bitwiseDecode_of_allValid hf hfn hrest)
  · exact absurd h hmode

theorem decResult_quantized {f : Frozen} (hf : ConfiguredOk f) (hmode : f.mode = .quantized) {s : List Byte}
    (hs : AllValid f (stripPads s)) : decResult f s = some (.bytes (quantizedBytes f (stripPads s))) := by
  rw [decResult, hmode]
  exact congrArg some (quantDecodeClosedForm f s hf hmode hs)

/-- The bytes of a string without an invalid character. -/
def validBytes (f : Frozen) (s : List Byte) : List Byte :=
  if f.mode = .quantized then quantizedBytes f (stripPads s) else standardBytes f s

theorem decResult_of_allValid {f : Frozen} (hf : ConfiguredOk f) {s : List Byte} (hs : AllValid f (checkedString f s)) :
    decResult f s = some (.bytes (validBytes f s)) := by
  by_cases hmode : f.mode = .quantized
  · rw [checkedString_quantized hmode] at hs
    rw [validBytes, if_pos hmode, decResult_quantized hf hmode hs]
  · rw [checkedString_standard hmode] at hs
    rw [validBytes, if_neg hmode, decResult_standard hf hmode hs]

/-! ### The codec's decoding -/

theorem map_idxOf_eq_map_digitValue {f : Frozen} (hf : ConfiguredOk f) {s : List Byte} (hs : AllValid f s) :
    s.map (fun c => f.falpha.idxOf c) = s.map f.digitValue :=
  List.map_congr_left fun c hc => (digitValue_of_mem hf (hs c hc)).symm

theorem codecDecode_of_invalid {f : Frozen} (hf : ConfiguredOk f) {s : List Byte} {i : Nat}
    (h : firstInvalid f 0 (checkedString f s) = some i) : codecDecode f s = .invalid i := by
  rw [firstInvalid_zero_eq_findIdx? hf, checkedString] at h
  simp only [codecDecode, h]

theorem codecDecode_of_allValid {f : Frozen} (hf : ConfiguredOk f) {s : List Byte}
    (hs : AllValid f (checkedString f s)) : codecDecode f s = .bytes (validBytes f s) := by
  have hnone := (firstInvalid_eq_none_iff hf (i := 0)).mpr hs
  rw [firstInvalid_zero_eq_findIdx? hf] at hnone
  by_cases hmode : f.mode = .quantized
  · rw [checkedString_quantized hmode] at hs hnone
    simp only [codecDecode, validBytes, if_pos hmode, hnone, map_idxOf_eq_map_digitValue hf hs, quantizedBytes]
  · rw [checkedString_standard hmode] at hs hnone
    simp only [codecDecode, validBytes, if_neg hmode, hnone, length_takeWhile_eq_leadingRun,
      map_idxOf_eq_map_digitValue hf (allValid_drop hs _), standardBytes, leaderCount]

/-- The dispatched decoder and the codec agree on every string (45_commands.md R202): both answer the first invalid
character, or both the bytes; no carry is left over (44_generic.md R193). -/
theorem decResult_cases {f : Frozen} (hf : ConfiguredOk f) (s : List Byte) :
    (∃ i, firstInvalid f 0 (checkedString f s) = some i ∧ decResult f s = some (.invalid i) ∧
      codecDecode f s = .invalid i) ∨
    (AllValid f (checkedString f s) ∧ decResult f s = some (.bytes (validBytes f s)) ∧
      codecDecode f s = .bytes (validBytes f s)) := by
  cases h : firstInvalid f 0 (checkedString f s) with
  | some i => exact .inl ⟨i, rfl, decResult_of_invalid hf h, codecDecode_of_invalid hf h⟩
  | none =>
    have hs := (firstInvalid_eq_none_iff hf).mp h
    exact .inr ⟨hs, decResult_of_allValid hf hs, codecDecode_of_allValid hf hs⟩

/-- Settles O43: each decoder ends at the first invalid character of the string it checks, and with bytes where there
is none. -/
theorem invalidIndexIsTheLeast : Obligations.InvalidIndexIsTheLeast := by
  intro f s i hf
  refine Iff.trans ?_ (firstInvalid_eq_some_iff hf (checkedString f s) i)
  obtain ⟨j, hfirst, hdec, -⟩ | ⟨hs, hdec, -⟩ := decResult_cases hf s
  · simp [hfirst, hdec]
  · simp [(firstInvalid_eq_none_iff hf).mpr hs, hdec]

theorem decResult_eq_codecDecode {f : Frozen} (hf : ConfiguredOk f) (s : List Byte) :
    decResult f s = some (codecDecode f s) := by
  obtain ⟨i, -, hdec, hcodec⟩ | ⟨-, hdec, hcodec⟩ := decResult_cases hf s <;> rw [hdec, hcodec]

theorem codecDecode_ne_carryOverflow {f : Frozen} (hf : ConfiguredOk f) (s : List Byte) :
    codecDecode f s ≠ .carryOverflow := by
  obtain ⟨i, -, -, hcodec⟩ | ⟨-, -, hcodec⟩ := decResult_cases hf s <;> simp [hcodec]

/-! ### The encoders -/

/-- The string of a byte sequence in GENERIC and BITWISE mode (42_bitwise.md R144; 44_generic.md R185). -/
def standardString (f : Frozen) (b : List Byte) : List Byte :=
  List.replicate (zeroCount b) f.fleader ++ (digitsOf f.fn (beValue (b.drop (zeroCount b)))).map f.char

theorem encResult_standard {f : Frozen} (hf : ConfiguredOk f) (hmode : f.mode ≠ .quantized) (b : List Byte) :
    encResult f b = some (standardString f b) := by
  obtain h | ⟨h, hfn⟩ | h := mode_cases hf
  · rw [encResult, h]
    exact genericEncodeClosedForm f b hf
  · rw [encResult, h]
    exact congrArg some (bitwiseEncodeClosedForm f b hf hfn)
  · exact absurd h hmode

theorem encResult_quantized {f : Frozen} (hmode : f.mode = .quantized) (b : List Byte) :
    encResult f b = some (quantEncode f b) := by
  rw [encResult, hmode]

/-- The dispatched encoder is the codec's (45_commands.md R202). -/
theorem encResult_eq_codecEncode {f : Frozen} (hf : ConfiguredOk f) (b : List Byte) :
    encResult f b = some (codecEncode f b) := by
  by_cases hmode : f.mode = .quantized
  · rw [encResult_quantized hmode, quantEncodeClosedForm f b hf hmode, codecEncode, if_pos hmode]
    rfl
  · simp only [encResult_standard hf hmode, codecEncode, if_neg hmode, length_takeWhile_eq_leadingRun]
    rfl

end Sys2Proof.Proofs
end

section
/-! Proofs that decoding undoes encoding and, in GENERIC and BITWISE mode, encoding decoding (44_generic.md R194;
43_quantized.md R170). -/

namespace Sys2Proof.Proofs

open Sys2Proof.Machine Sys2Proof.Claims

theorem minimalDigits_digitsOf {n : Nat} (hn : 1 < n) (v : Nat) : MinimalDigits n (digitsOf n v) := by
  constructor
  · intro d hd
    exact Nat.digits_lt_base hn (List.mem_reverse.mp hd)
  · rw [digitsOf, List.head?_reverse]
    intro hlast
    obtain ⟨hne, hzero⟩ := List.mem_getLast?_eq_getLast hlast
    exact Nat.getLast_digit_ne_zero n (Nat.digits_ne_nil_iff_ne_zero.mp hne) hzero.symm

@[simp] theorem valBase_digitsOf (n v : Nat) : valBase n (digitsOf n v) = v := by
  rw [valBase_eq_ofDigits, digitsOf, List.reverse_reverse, Nat.ofDigits_digits]

theorem map_toNat_map_ofNat {ds : List Nat} (h : ∀ d ∈ ds, d < 256) :
    (ds.map (BitVec.ofNat 8)).map BitVec.toNat = ds := by
  rw [List.map_map]
  exact (List.map_congr_left fun d hd => Nat.mod_eq_of_lt (h d hd)).trans (List.map_id ds)

@[simp] theorem beValue_minBytes (v : Nat) : beValue (minBytes v) = v := by
  rw [beValue_eq_valBase, minBytes, map_toNat_map_ofNat (minimalDigits_digitsOf (by decide) v).1, valBase_digitsOf]

theorem head?_minBytes_ne_zero (v : Nat) : (minBytes v).head? ≠ some 0 := by
  obtain ⟨hlt, hhead⟩ := minimalDigits_digitsOf (n := 256) (by decide) v
  intro hzero
  rw [minBytes, List.head?_map, Option.map_eq_some_iff] at hzero
  obtain ⟨d, hd, hbyte⟩ := hzero
  have hd0 : d % 256 = 0 := congrArg BitVec.toNat hbyte
  rw [Nat.mod_eq_of_lt (hlt d (List.mem_of_head? hd))] at hd0
  exact hhead (hd0 ▸ hd)

theorem char_digitValue {f : Frozen} (hf : ConfiguredOk f) {c : Byte} (hc : c ∈ f.falpha) :
    f.char (f.digitValue c) = c := by
  rw [digitValue_of_mem hf hc, char_eq_getElem (List.idxOf_lt_length_of_mem hc), List.getElem_idxOf]

theorem map_char_map_digitValue {f : Frozen} (hf : ConfiguredOk f) {s : List Byte} (hs : AllValid f s) :
    (s.map f.digitValue).map f.char = s := by
  rw [List.map_map]
  exact (List.map_congr_left fun c hc => char_digitValue hf (hs c hc)).trans (List.map_id s)

/-! ### Decoding an encoded sequence -/

theorem allValid_standardString {f : Frozen} (hf : ConfiguredOk f) (b : List Byte) :
    AllValid f (standardString f b) := by
  obtain ⟨hn, -⟩ := fn_range_of_configured hf
  refine List.forall_mem_append.mpr ⟨fun c hc => ?_, allValid_map_char hf (minimalDigits_digitsOf hn _).1⟩
  exact List.eq_of_mem_replicate hc ▸ fleader_mem hf

theorem standardBytes_standardString {f : Frozen} (hf : ConfiguredOk f) (b : List Byte) :
    standardBytes f (standardString f b) = b := by
  obtain ⟨hn, -⟩ := fn_range_of_configured hf
  have hdigits := minimalDigits_digitsOf hn (beValue (b.drop (zeroCount b)))
  have hz : leaderCount f (standardString f b) = zeroCount b :=
    leaderCount_leaders_append_digits hf hdigits (zeroCount b)
  have hrest : (standardString f b).drop (zeroCount b) =
      (digitsOf f.fn (beValue (b.drop (zeroCount b)))).map f.char := by simp [standardString]
  rw [standardBytes, hz, hrest, map_digitValue_map_char hf hdigits.1, valBase_digitsOf, minBytes_beValue]
  have hidem : (b.drop (zeroCount b)).drop (zeroCount (b.drop (zeroCount b))) = b.drop (zeroCount b) := by
    simp only [zeroCount, drop_leadingRun, List.dropWhile_idempotent]
  rw [hidem]
  exact replicate_leadingRun_append_drop 0 b

/-- Decoding undoes encoding, in every mode. -/
theorem decResult_of_encResult {f : Frozen} (hf : ConfiguredOk f) {b e : List Byte} (h : encResult f b = some e) :
    decResult f e = some (.bytes b) := by
  by_cases hmode : f.mode = .quantized
  · rw [encResult_quantized hmode] at h
    obtain rfl := Option.some.inj h
    rw [decResult, hmode]
    exact congrArg some (quantizedRoundTrip f b hf hmode)
  · rw [encResult_standard hf hmode] at h
    obtain rfl := Option.some.inj h
    rw [decResult_standard hf hmode (allValid_standardString hf b), standardBytes_standardString hf]

/-! ### Encoding a decoded string -/

/-- After the leaders the digits start with no zero. -/
theorem minimalDigits_drop_leaders {f : Frozen} (hf : ConfiguredOk f) {s : List Byte} (hs : AllValid f s) :
    MinimalDigits f.fn ((s.drop (leaderCount f s)).map f.digitValue) := by
  refine ⟨digitValues_lt hf (allValid_drop hs _), fun hzero => ?_⟩
  rw [List.head?_map, Option.map_eq_some_iff] at hzero
  obtain ⟨c, hc, hdigit⟩ := hzero
  have hmem : c ∈ f.falpha := allValid_drop hs _ c (List.mem_of_head? hc)
  have hleader : c = f.fleader := by
    rw [← char_digitValue hf hmem]
    exact (char_eq_fleader_iff hf (digitValue_lt hf hmem)).mpr hdigit
  rw [List.head?_drop, hleader] at hc
  exact getElem?_leadingRun_ne f.fleader s hc

theorem standardString_standardBytes {f : Frozen} (hf : ConfiguredOk f) {s : List Byte} (hs : AllValid f s) :
    standardString f (standardBytes f s) = s := by
  obtain ⟨hn, -⟩ := fn_range_of_configured hf
  have hz : zeroCount (standardBytes f s) = leaderCount f s := by
    rw [zeroCount, standardBytes, leadingRun_replicate_append, leadingRun_eq_zero (head?_minBytes_ne_zero _),
      Nat.add_zero]
  have hrest : (standardBytes f s).drop (leaderCount f s) =
      minBytes (valBase f.fn ((s.drop (leaderCount f s)).map f.digitValue)) := by simp [standardBytes]
  rw [standardString, hz, hrest, beValue_minBytes, digitsOf_valBase_of_minimal hn (minimalDigits_drop_leaders hf hs),
    map_char_map_digitValue hf (allValid_drop hs _)]
  exact replicate_leadingRun_append_drop f.fleader s

/-- Settles O36: the closed forms of the two directions undo each other. -/
theorem standardModesAreBijective : Obligations.StandardModesAreBijective := by
  intro f hf hmode
  have hmode : f.mode ≠ .quantized := by
    rintro hq
    simp [hq] at hmode
  constructor
  · intro b
    have henc := encResult_standard hf hmode b
    exact ⟨_, henc, allValid_standardString hf b, decResult_of_encResult hf henc⟩
  · intro s hs
    exact ⟨_, decResult_standard hf hmode hs, by rw [encResult_standard hf hmode, standardString_standardBytes hf hs]⟩

end Sys2Proof.Proofs
end

section
/-! Proofs about the lengths of results (45_commands.md R204; 60_exceptions.md R236). -/

namespace Sys2Proof.Proofs

open Sys2Proof.Machine Sys2Proof.Claims

theorem length_digitsOf_le {n v k : Nat} (hn : 1 < n) (h : v < n ^ k) : (digitsOf n v).length ≤ k := by
  rw [digitsOf, List.length_reverse]
  exact (Nat.digits_length_le_iff hn v).mpr h

/-- A character stands for at most a byte. -/
theorem length_standardBytes_le {f : Frozen} (hf : ConfiguredOk f) {s : List Byte} (hs : AllValid f s) :
    (standardBytes f s).length ≤ s.length := by
  obtain ⟨hn, hle⟩ := fn_range_of_configured hf
  have hz := leadingRun_le_length f.fleader s
  have hvalue : valBase f.fn ((s.drop (leaderCount f s)).map f.digitValue) <
      256 ^ (s.drop (leaderCount f s)).length :=
    valBase_lt_of_room hn (digitValues_lt hf (allValid_drop hs _)) (List.length_map f.digitValue).le
      (Nat.pow_le_pow_left (by omega) _)
  have hlen := length_digitsOf_le (by decide) hvalue
  rw [List.length_drop] at hlen
  rw [standardBytes, minBytes, List.length_append, List.length_replicate, List.length_map]
  rw [leaderCount] at hlen ⊢
  omega

theorem length_quantizedBytes_le {f : Frozen} (hk : f.fk ≤ 8) (data : List Byte) :
    (quantizedBytes f data).length ≤ data.length := by
  rw [quantizedBytes, List.length_map, length_fixedDigits]
  exact Nat.div_le_of_le_mul (by rw [Nat.mul_comm]; exact Nat.mul_le_mul_right _ hk)

theorem length_stripPads_le (s : List Byte) : (stripPads s).length ≤ s.length :=
  (List.rdropWhile_prefix (fun c => c == Config.pad) (l := s)).length_le

theorem length_validBytes_le {f : Frozen} (hf : ConfiguredOk f) {s : List Byte} (hs : AllValid f (checkedString f s)) :
    (validBytes f s).length ≤ s.length := by
  by_cases hmode : f.mode = .quantized
  · obtain ⟨-, -, hk⟩ := fk_range_of_quantized hf hmode
    rw [validBytes, if_pos hmode]
    exact (length_quantizedBytes_le (by omega) _).trans (length_stripPads_le s)
  · rw [checkedString_standard hmode] at hs
    rw [validBytes, if_neg hmode]
    exact length_standardBytes_le hf hs

theorem length_le_of_decResult {f : Frozen} (hf : ConfiguredOk f) {s r : List Byte}
    (h : decResult f s = some (.bytes r)) : r.length ≤ s.length := by
  obtain ⟨i, -, hdec, -⟩ | ⟨hs, hdec, -⟩ := decResult_cases hf s
  · simp [hdec] at h
  · obtain rfl : validBytes f s = r := by simpa [hdec] using h
    exact length_validBytes_le hf hs

theorem beValue_lt (b : List Byte) : beValue b < 256 ^ b.length := by
  have hlt := valBase_lt (n := 256) (by decide) (List.forall_mem_map.mpr fun (x : Byte) (_ : x ∈ b) => x.isLt)
  rwa [← beValue_eq_valBase, List.length_map] at hlt

/-- A character stands for at least a bit. -/
theorem length_standardString_le {f : Frozen} (hf : ConfiguredOk f) (b : List Byte) :
    (standardString f b).length ≤ 8 * b.length := by
  obtain ⟨hn, -⟩ := fn_range_of_configured hf
  have hz := leadingRun_le_length 0 b
  have hvalue : beValue (b.drop (zeroCount b)) < f.fn ^ (8 * (b.drop (zeroCount b)).length) :=
    calc beValue (b.drop (zeroCount b)) < 256 ^ (b.drop (zeroCount b)).length := beValue_lt _
      _ = 2 ^ (8 * (b.drop (zeroCount b)).length) := by rw [Nat.pow_mul]
      _ ≤ f.fn ^ (8 * (b.drop (zeroCount b)).length) := Nat.pow_le_pow_left hn _
  have hlen := length_digitsOf_le hn hvalue
  rw [List.length_drop] at hlen
  rw [standardString, List.length_append, List.length_replicate, List.length_map]
  rw [zeroCount] at hlen ⊢
  omega

theorem ceilDiv_le {a b q : Nat} (hb : 0 < b) (h : a ≤ b * q) : ceilDiv a b ≤ q := by
  rw [ceilDiv, Nat.div_le_iff_le_mul_add_pred hb]
  omega

/-- Eight characters a byte hold the bits and fill whole groups, and the padded string is the least such. -/
theorem length_quantEncode_le {f : Frozen} (hf : ConfiguredOk f) (hmode : f.mode = .quantized) (b : List Byte) :
    (quantEncode f b).length ≤ 8 * b.length := by
  obtain ⟨-, hk, -⟩ := fk_range_of_quantized hf hmode
  obtain ⟨hlen, -⟩ := quantEncodeLength f b hf hmode
  have hdata : dataChars f.fk b.length ≤ 8 * b.length := ceilDiv_le hk (Nat.le_mul_of_pos_left _ hk)
  obtain ⟨q, hq⟩ : groupChars f.fk ∣ 8 * b.length :=
    (Nat.div_dvd_of_dvd (Nat.gcd_dvd_right f.fk 8)).trans (Nat.dvd_mul_right 8 _)
  rw [hlen, hq]
  exact Nat.mul_le_mul_left _ (ceilDiv_le (groupChars_range f.fk).1 (hq ▸ hdata))

theorem length_le_of_encResult {f : Frozen} (hf : ConfiguredOk f) {b e : List Byte} (h : encResult f b = some e) :
    e.length ≤ 8 * b.length := by
  by_cases hmode : f.mode = .quantized
  · obtain rfl := Option.some.inj ((encResult_quantized hmode b).symm.trans h)
    exact length_quantEncode_le hf hmode b
  · obtain rfl := Option.some.inj ((encResult_standard hf hmode b).symm.trans h)
    exact length_standardString_le hf b

end Sys2Proof.Proofs
end

section
/-! Proofs about the data commands: how ENCODE, DECODE and DECODE_UNSAFE can end, said once for the three of them
(45_commands.md R202 to R208). -/

namespace Sys2Proof.Proofs

open Sys2Proof.Machine Sys2Proof.Claims

/-- What the datapath that FMODE names answers to a data command (45_commands.md R202). -/
def dataResult (i : Instr) (f : Frozen) (b : List Byte) : Decoded :=
  match i with
  | .config => .carryOverflow
  | .encode => (encResult f b).elim .carryOverflow .bytes
  | .decode => (decResult f b).getD .carryOverflow
  | .decodeUnsafe => (decResult f b).getD .carryOverflow

/-- How a data command reports an invalid character: DECODE by an error, DECODE_UNSAFE by ABSENT (45_commands.md R204,
R205). ENCODE meets none. -/
def reportInvalid (i : Instr) (n : Nat) (s : State) : State :=
  if i = .decodeUnsafe then reportAbsent n s
  else raiseError i { code := .invalidCharacter, pos := n, base := s.frozen.fn } s

/-- The ends of a data command `i` in state `s`: each with the checks that lead there, in the order of the rules
(45_commands.md R203 to R208; 60_exceptions.md R245). -/
inductive DataEnd (i : Instr) (s : State) : State → Prop
  | unconfigured (hmode : s.frozen.mode = .none) : DataEnd i s (raiseNotConfigured i s)
  | oversized (hmode : s.frozen.mode ≠ .none) (hlen : s.params.inCap < s.inLen.toNat) :
      DataEnd i s (raiseInvalidInput i s)
  | invalid (hmode : s.frozen.mode ≠ .none) (hlen : s.inLen.toNat ≤ s.params.inCap) {n : Nat}
      (hn : dataResult i s.frozen (inputOperand s) = .invalid n) : DataEnd i s (reportInvalid i n s)
  | overflow (hmode : s.frozen.mode ≠ .none) (hlen : s.inLen.toNat ≤ s.params.inCap) {r : List Byte}
      (hr : dataResult i s.frozen (inputOperand s) = .bytes r) (hover : s.params.outCap < r.length) :
      DataEnd i s (raiseError i { code := .outputOverflow, pos := 0, base := 0 } s)
  | delivered (hmode : s.frozen.mode ≠ .none) (hlen : s.inLen.toNat ≤ s.params.inCap) {r : List Byte}
      (hr : dataResult i s.frozen (inputOperand s) = .bytes r) (hfit : r.length ≤ s.params.outCap) :
      DataEnd i s (deliver r s)

theorem exec_unconfigured {i : Instr} (hi : i ≠ .config) {s : State} (h : s.frozen.mode = .none) :
    exec i s = .next (raiseNotConfigured i s) := by
  cases i with
  | config => exact absurd rfl hi
  | encode => simp [exec, execEncode, h]
  | decode => simp [exec, execDecode, h]
  | decodeUnsafe => simp [exec, execDecodeUnsafe, h]

/-- An encoder's answer is completed as a decoder's that meets no invalid character. -/
theorem runEncode_eq_runDecode (op : Instr) (onInvalid : Nat → State → State) (enc : List Byte → Option (List Byte))
    (s : State) : runEncode op enc s = runDecode op onInvalid (fun b => (enc b).elim .carryOverflow .bytes) s := by
  rw [runEncode, runDecode]
  cases enc (inputOperand s) <;> rfl

/-- A configured data command runs the datapath that FMODE names. -/
theorem exec_configured {i : Instr} (hi : i ≠ .config) {s : State} (h : s.frozen.mode ≠ .none) :
    exec i s = runDecode i (reportInvalid i) (dataResult i s.frozen) s := by
  cases i with
  | config => exact absurd rfl hi
  | encode =>
    have henc : exec .encode s = runEncode .encode (encResult s.frozen) s := by
      cases hmode : s.frozen.mode with
      | none => exact absurd hmode h
      | generic | bitwise | quantized => simp [exec, execEncode, runEncode, encResult, hmode]
    rw [henc, runEncode_eq_runDecode .encode (reportInvalid .encode)]
    rfl
  | decode =>
    have hreport : reportInvalid .decode = raiseInvalidCharacter := rfl
    cases hmode : s.frozen.mode with
    | none => exact absurd hmode h
    | generic | bitwise | quantized => simp [exec, execDecode, runDecode, dataResult, decResult, hreport, hmode]
  | decodeUnsafe =>
    have hreport : reportInvalid .decodeUnsafe = reportAbsent := rfl
    cases hmode : s.frozen.mode with
    | none => exact absurd hmode h
    | generic | bitwise | quantized => simp [exec, execDecodeUnsafe, runDecode, dataResult, decResult, hreport, hmode]

/-- A data command answers a next state exactly where it ends in one of these ways. -/
theorem exec_eq_next_iff {i : Instr} (hi : i ≠ .config) {s t : State} : exec i s = .next t ↔ DataEnd i s t := by
  constructor
  · intro h
    by_cases hmode : s.frozen.mode = .none
    · rw [exec_unconfigured hi hmode] at h
      cases h
      exact .unconfigured hmode
    · rw [exec_configured hi hmode] at h
      obtain ⟨hlen, hrun⟩ | ⟨hlen, ⟨r, hr, hrun⟩ | ⟨n, hn, hrun⟩ | ⟨-, hrun⟩⟩ :=
        runDecode_cases i (reportInvalid i) (dataResult i s.frozen) s <;> rw [hrun] at h <;> cases h
      · exact .oversized hmode hlen
      · obtain ⟨hover, hout⟩ | ⟨hfit, hout⟩ := output_cases i r s <;> rw [hout]
        · exact .overflow hmode hlen hr hover
        · exact .delivered hmode hlen hr hfit
      · exact .invalid hmode hlen hn
  · rintro (hmode | ⟨hmode, hlen⟩ | ⟨hmode, hlen, hn⟩ | ⟨hmode, hlen, hr, hover⟩ | ⟨hmode, hlen, hr, hfit⟩)
    · exact exec_unconfigured hi hmode
    · simp [exec_configured hi hmode, runDecode, inputTooLong, hlen]
    · simp [exec_configured hi hmode, runDecode, inputTooLong, Nat.not_lt.mpr hlen, hn]
    · simp [exec_configured hi hmode, runDecode, inputTooLong, Nat.not_lt.mpr hlen, hr, output, hover]
    · simp [exec_configured hi hmode, runDecode, inputTooLong, Nat.not_lt.mpr hlen, hr, output, Nat.not_lt.mpr hfit]

/-- No table entry answers in mode NONE, so a result names a configuration. -/
theorem mode_ne_none_of_encResult {f : Frozen} {b e : List Byte} (h : encResult f b = some e) : f.mode ≠ .none := by
  intro hmode
  simp [encResult, hmode] at h

theorem mode_ne_none_of_decResult {f : Frozen} {s : List Byte} {d : Decoded} (h : decResult f s = some d) :
    f.mode ≠ .none := by
  intro hmode
  simp [decResult, hmode] at h

theorem dataResult_encode {f : Frozen} {b e : List Byte} (h : encResult f b = some e) :
    dataResult .encode f b = .bytes e := by
  simp [dataResult, h]

theorem dataResult_decode {f : Frozen} {s : List Byte} {d : Decoded} (h : decResult f s = some d) :
    dataResult .decode f s = d ∧ dataResult .decodeUnsafe f s = d := by
  simp [dataResult, h]

/-- Under a well-formed configuration no carry is left over: a data command gets bytes or an invalid character
(44_generic.md R193). -/
theorem dataResult_ne_carryOverflow {i : Instr} (hi : i ≠ .config) {f : Frozen} (hf : ConfiguredOk f) (b : List Byte) :
    dataResult i f b ≠ .carryOverflow := by
  cases i with
  | config => exact absurd rfl hi
  | encode => simp [dataResult_encode (encResult_eq_codecEncode hf b)]
  | decode =>
    rw [(dataResult_decode (decResult_eq_codecDecode hf b)).1]
    exact codecDecode_ne_carryOverflow hf b
  | decodeUnsafe =>
    rw [(dataResult_decode (decResult_eq_codecDecode hf b)).2]
    exact codecDecode_ne_carryOverflow hf b

/-! ### The states they end in -/

/-- The error of a data command as the statements write it. -/
theorem raiseError_eq_dataFailed {i : Instr} (hi : i ≠ .config) (e : Raise) (s : State) :
    raiseError i e s = dataFailed e.code (BitVec.ofNat 16 e.pos) (BitVec.ofNat 8 e.base) s :=
  raiseError_data hi e s

/-- OUT_CAP fits in OUT_LEN (00_scope.md R8). -/
theorem outCap_le_of_wf {p : Params} (h : p.wf = true) : p.outCap ≤ 0x10000 := by
  simp only [Params.wf, capacityWf, Bool.and_eq_true, decide_eq_true_eq] at h
  obtain ⟨-, -, -, hle⟩ := h
  exact hle

theorem delivered_deliver {s : State} (hp : s.params.wf = true) {r : List Byte} (hfit : r.length ≤ s.params.outCap) :
    Delivered r s (deliver r s) := by
  have hcap := outCap_le_of_wf hp
  have hlen : r.length < 2 ^ 32 := by omega
  refine ⟨fun i hi => ?_, fun i hi => ?_, Nat.mod_eq_of_lt hlen, rfl⟩
  · simp [Ram.read_writeBytes, hi]
  · simp [Ram.read_writeBytes, Nat.not_lt.mpr hi]

/-- Settles O20: before any other check, by the shared error of a data command. -/
theorem unconfiguredDataCommandFails : Obligations.UnconfiguredDataCommandFails := by
  intro s i hi hmode
  rw [exec_unconfigured hi hmode, raiseNotConfigured, raiseError_eq_dataFailed hi]
  rfl

/-- Settles O21: before any byte of IN is read, by the shared error of a data command. -/
theorem oversizedInputFails : Obligations.OversizedInputFails := by
  intro s i hi hmode hlen
  rw [(exec_eq_next_iff hi).mpr (.oversized hmode hlen), raiseInvalidInput, raiseError_eq_dataFailed hi]
  rfl

theorem exec_overflows {i : Instr} (hi : i ≠ .config) {s : State} (hmode : s.frozen.mode ≠ .none)
    (hlen : s.inLen.toNat ≤ s.params.inCap) {r : List Byte} (hr : dataResult i s.frozen (inputOperand s) = .bytes r)
    (hover : s.params.outCap < r.length) : exec i s = .next (dataFailed .outputOverflow 0 0 s) := by
  rw [(exec_eq_next_iff hi).mpr (.overflow hmode hlen hr hover), raiseError_eq_dataFailed hi]
  rfl

/-- Settles O22: Output refuses the result of the dispatched datapath, whatever the command. -/
theorem resultLongerThanOutFails : Obligations.ResultLongerThanOutFails := by
  constructor
  · intro s r hlen hr hover
    exact exec_overflows (by decide) (mode_ne_none_of_encResult hr) hlen (dataResult_encode hr) hover
  · intro s r hlen hr hover
    obtain ⟨hdecode, hunsafe⟩ := dataResult_decode hr
    have hmode := mode_ne_none_of_decResult hr
    exact ⟨exec_overflows (by decide) hmode hlen hdecode hover, exec_overflows (by decide) hmode hlen hunsafe hover⟩

theorem exec_delivers {i : Instr} (hi : i ≠ .config) {s : State} (hp : s.params.wf = true)
    (hmode : s.frozen.mode ≠ .none) (hlen : s.inLen.toNat ≤ s.params.inCap) {r : List Byte}
    (hr : dataResult i s.frozen (inputOperand s) = .bytes r) (hfit : r.length ≤ s.params.outCap) :
    ∃ t, exec i s = .next t ∧ Delivered r s t :=
  ⟨_, (exec_eq_next_iff hi).mpr (.delivered hmode hlen hr hfit), delivered_deliver hp hfit⟩

/-- Settles O23: Output delivers the dispatched encoder's string. -/
theorem encodeDeliversTheEncodedString : Obligations.EncodeDeliversTheEncodedString := by
  intro s r hp hlen hr hfit
  exact exec_delivers (by decide) hp (mode_ne_none_of_encResult hr) hlen (dataResult_encode hr) hfit

/-- Settles O24: Output delivers the dispatched decoder's bytes. -/
theorem decodeDeliversTheDecodedBytes : Obligations.DecodeDeliversTheDecodedBytes := by
  intro s r hp hlen hr hfit
  exact exec_delivers (by decide) hp (mode_ne_none_of_decResult hr) hlen (dataResult_decode hr).1 hfit

/-- Settles O25: Output delivers the dispatched decoder's bytes. -/
theorem decodeUnsafeDeliversTheDecodedBytes : Obligations.DecodeUnsafeDeliversTheDecodedBytes := by
  intro s r hp hlen hr hfit
  exact exec_delivers (by decide) hp (mode_ne_none_of_decResult hr) hlen (dataResult_decode hr).2 hfit

/-- An invalid character ends the two decoding commands as each reports it. -/
theorem exec_decode_of_decResult_invalid {s : State} (hlen : s.inLen.toNat ≤ s.params.inCap) {n : Nat}
    (h : decResult s.frozen (inputOperand s) = some (.invalid n)) :
    exec .decode s = .next (dataFailed .invalidCharacter (BitVec.ofNat 16 n) (BitVec.ofNat 8 s.frozen.fn) s) ∧
    exec .decodeUnsafe s =
      .next { dataFailed .none (BitVec.ofNat 16 n) (BitVec.ofNat 8 s.frozen.fn) s with absent := true } := by
  obtain ⟨hdecode, hunsafe⟩ := dataResult_decode h
  have hmode := mode_ne_none_of_decResult h
  exact ⟨(exec_eq_next_iff (by decide)).mpr (.invalid hmode hlen hdecode),
    (exec_eq_next_iff (by decide)).mpr (.invalid hmode hlen hunsafe)⟩

/-- Settles O26: the dispatched decoder answers the least invalid index, and it is reported before OUT_CAP is looked
at. -/
theorem invalidCharacterIsErrorOrAbsent : Obligations.InvalidCharacterIsErrorOrAbsent := by
  intro s i hf hlen hleast
  exact exec_decode_of_decResult_invalid hlen ((invalidIndexIsTheLeast s.frozen (inputOperand s) i hf).mpr hleast)

/-- Settles O27: the dispatched datapath is the codec, and the commands deliver or report what it answers. -/
theorem dataCommandsComputeTheCodec : Obligations.DataCommandsComputeTheCodec := by
  intro s hp hf hlen
  have henc := encResult_eq_codecEncode hf (inputOperand s)
  have hdec := decResult_eq_codecDecode hf (inputOperand s)
  refine ⟨encodeDeliversTheEncodedString s _ hp hlen henc, fun r hr hfit => ?_, fun i hi => ?_,
    codecDecode_ne_carryOverflow hf _⟩
  · rw [hr] at hdec
    exact ⟨decodeDeliversTheDecodedBytes s r hp hlen hdec hfit,
      decodeUnsafeDeliversTheDecodedBytes s r hp hlen hdec hfit⟩
  · rw [hi] at hdec
    exact exec_decode_of_decResult_invalid hlen hdec

end Sys2Proof.Proofs
end

section
/-! Proofs about the round trip, the empty input and determinism of the data commands (45_commands.md R210, R212). -/

namespace Sys2Proof.Proofs

open Sys2Proof.Machine Sys2Proof.Claims

theorem toNat_length_of_fits {p : Params} (hp : p.wf = true) {r : List Byte} (hfit : r.length ≤ p.outCap) :
    (BitVec.ofNat 32 r.length).toNat = r.length := by
  have hcap := outCap_le_of_wf hp
  exact Nat.mod_eq_of_lt (by omega)

theorem inputOperand_eq {s : State} {b : List Byte} (hlen : s.inLen.toNat = b.length)
    (hread : ∀ a (h : a < b.length), s.inp.read a = b[a]) : inputOperand s = b := by
  refine List.ext_getElem (by simpa [inputOperand] using hlen) fun a _ ha => ?_
  simpa [inputOperand] using hread a ha

/-- An ENCODE that ended without an error delivered the dispatched encoder's string. -/
theorem exec_encode_succeeded {s t : State} (hf : ConfiguredOk s.frozen) (h : exec .encode s = .next t)
    (herr : t.err = .none) :
    ∃ e, encResult s.frozen (inputOperand s) = some e ∧ e.length ≤ s.params.outCap ∧ t = deliver e s := by
  have henc := encResult_eq_codecEncode hf (inputOperand s)
  obtain hmode | ⟨hmode, hlen⟩ | ⟨hmode, hlen, hn⟩ | ⟨hmode, hlen, hr, hover⟩ | ⟨hmode, hlen, hr, hfit⟩ :=
    (exec_eq_next_iff (by decide)).mp h
  · simp [raiseNotConfigured] at herr
  · simp [raiseInvalidInput] at herr
  · simp [dataResult_encode henc] at hn
  · simp at herr
  · rw [dataResult_encode henc] at hr
    cases hr
    exact ⟨_, henc, hfit, rfl⟩

/-- Settles O28: ENCODE delivered an encoding of its input, and the dispatched decoder undoes it. -/
theorem encodeThenDecodeReturnsTheInput : Obligations.EncodeThenDecodeReturnsTheInput := by
  intro s t s' hp hf henc herr hfrozen hparams hinLen hroom hcopy hfit
  obtain ⟨e, he, hefit, rfl⟩ := exec_encode_succeeded hf henc herr
  have hlen : (deliver e s).outLen.toNat = e.length := toNat_length_of_fits hp hefit
  obtain ⟨hstring, -⟩ := delivered_deliver hp hefit
  have hinput : inputOperand s' = e := inputOperand_eq (hinLen ▸ hlen) fun a ha => by
    rw [hcopy a (by omega), hstring a ha]
  have hdec : decResult s'.frozen (inputOperand s') = some (.bytes (inputOperand s)) := by
    rw [hinput, hfrozen]
    exact decResult_of_encResult hf he
  have hinputLen : (inputOperand s).length = s.inLen.toNat := by simp [inputOperand]
  obtain ⟨t', hrun, hbytes, -, houtLen, hstate⟩ := decodeDeliversTheDecodedBytes s' (inputOperand s)
    (hparams ▸ hp) (by rw [hinLen, hparams]; exact hroom) hdec (by rw [hinputLen, hparams]; exact hfit)
  refine ⟨t', hrun, by rw [hstate], BitVec.eq_of_toNat_eq (houtLen.trans hinputLen), fun a ha => ?_⟩
  rw [hbytes a (by omega)]
  simp [inputOperand]

theorem encResult_nil {f : Frozen} (hf : ConfiguredOk f) : encResult f [] = some [] := by
  by_cases hmode : f.mode = .quantized
  · rw [encResult_quantized hmode]
    simp [quantEncode, quantDigits, quantPads]
  · rw [encResult_standard hf hmode]
    simp [standardString, zeroCount, digitsOf]

/-- In every mode the empty sequence is encoded as the empty string, and so decoded back. -/
theorem dataResult_nil {i : Instr} (hi : i ≠ .config) {f : Frozen} (hf : ConfiguredOk f) :
    dataResult i f [] = .bytes [] := by
  have henc := encResult_nil hf
  obtain ⟨hdecode, hunsafe⟩ := dataResult_decode (decResult_of_encResult hf henc)
  cases i with
  | config => exact absurd rfl hi
  | encode => exact dataResult_encode henc
  | decode => exact hdecode
  | decodeUnsafe => exact hunsafe

/-- Settles O29: every datapath answers the empty result, which always fits. -/
theorem emptyInputGivesEmptyResult : Obligations.EmptyInputGivesEmptyResult := by
  intro s i hi hp hf hlen
  have hinput : inputOperand s = [] := inputOperand_eq (by simp [hlen]) nofun
  exact exec_delivers hi hp hf.1 (by simp [hlen]) (hinput ▸ dataResult_nil hi hf) (Nat.zero_le _)

/-! ### Determinism -/

/-- What the host can see of a data command's outcome. -/
def SameOutcome (t₁ t₂ : State) : Prop :=
  t₁.err = t₂.err ∧ t₁.absent = t₂.absent ∧ t₁.errinfo = t₂.errinfo ∧ t₁.outLen = t₂.outLen ∧
    ∀ a < t₁.outLen.toNat, t₁.out.read a = t₂.out.read a

theorem sameOutcome_raiseError {i : Instr} (hi : i ≠ .config) (e : Raise) (s₁ s₂ : State) :
    SameOutcome (raiseError i e s₁) (raiseError i e s₂) := by
  simp [SameOutcome, raiseError_data hi]

theorem sameOutcome_reportInvalid {i : Instr} (hi : i ≠ .config) (n : Nat) {s₁ s₂ : State}
    (h : s₁.frozen = s₂.frozen) : SameOutcome (reportInvalid i n s₁) (reportInvalid i n s₂) := by
  rw [reportInvalid, reportInvalid, h]
  split
  · simp [SameOutcome, h]
  · exact sameOutcome_raiseError hi _ s₁ s₂

theorem sameOutcome_deliver (r : List Byte) {s₁ s₂ : State} (h : s₁.errinfo = s₂.errinfo) :
    SameOutcome (deliver r s₁) (deliver r s₂) := by
  refine ⟨rfl, rfl, h, rfl, fun a ha => ?_⟩
  have hr : a < r.length := ha.trans_le (Nat.mod_le _ _)
  simp [Ram.read_writeBytes, hr]

/-- Where the operands agree a data command ends in the same way. -/
theorem DataEnd.sameOutcome {i : Instr} (hi : i ≠ .config) {s₁ s₂ t₁ : State} (h : DataEnd i s₁ t₁)
    (hfrozen : s₁.frozen = s₂.frozen) (hparams : s₁.params = s₂.params) (hlen : s₁.inLen = s₂.inLen)
    (herrinfo : s₁.errinfo = s₂.errinfo) (hinput : inputOperand s₁ = inputOperand s₂) :
    ∃ t₂, DataEnd i s₂ t₂ ∧ SameOutcome t₁ t₂ := by
  have hmodes : s₁.frozen.mode = s₂.frozen.mode := by rw [hfrozen]
  have hresult : dataResult i s₁.frozen (inputOperand s₁) = dataResult i s₂.frozen (inputOperand s₂) := by
    rw [hfrozen, hinput]
  obtain hmode | ⟨hmode, hle⟩ | ⟨hmode, hle, hn⟩ | ⟨hmode, hle, hr, hover⟩ | ⟨hmode, hle, hr, hfit⟩ := h
  · exact ⟨_, .unconfigured (hmodes ▸ hmode), sameOutcome_raiseError hi _ s₁ s₂⟩
  · exact ⟨_, .oversized (hmodes ▸ hmode) (hlen ▸ hparams ▸ hle), sameOutcome_raiseError hi _ s₁ s₂⟩
  · exact ⟨_, .invalid (hmodes ▸ hmode) (hlen ▸ hparams ▸ hle) (hresult ▸ hn), sameOutcome_reportInvalid hi _ hfrozen⟩
  · exact ⟨_, .overflow (hmodes ▸ hmode) (hlen ▸ hparams ▸ hle) (hresult ▸ hr) (hparams ▸ hover),
      sameOutcome_raiseError hi _ s₁ s₂⟩
  · exact ⟨_, .delivered (hmodes ▸ hmode) (hlen ▸ hparams ▸ hle) (hresult ▸ hr) (hparams ▸ hfit),
      sameOutcome_deliver _ herrinfo⟩

/-- Settles O12: the way a data command ends is chosen by its operands alone. -/
theorem dataResultDependsOnlyOnItsOperands : Obligations.DataResultDependsOnlyOnItsOperands := by
  intro i s₁ s₂ t₁ t₂ hi hfrozen hparams _ hlen herrinfo hread h₁ h₂
  have hinput : inputOperand s₁ = inputOperand s₂ := by
    rw [inputOperand, inputOperand, ← hlen]
    exact Ram.take_congr hread
  obtain ⟨t, hend, hsame⟩ :=
    ((exec_eq_next_iff hi).mp h₁).sameOutcome hi hfrozen hparams hlen herrinfo hinput
  have ht : t = t₂ := by simpa [h₂] using ((exec_eq_next_iff hi).mpr hend).symm
  exact ht ▸ hsame

end Sys2Proof.Proofs
end

section
/-! Proofs about every command's completion: it answers a next state, and what it leaves unchanged (45_commands.md
R201; 60_exceptions.md R238; 20_memory.md R75). -/

namespace Sys2Proof.Proofs

open Sys2Proof.Machine Sys2Proof.Claims

/-- The three states a data command can end in, with the length of what they refuse or deliver. -/
theorem DataEnd.shape {i : Instr} {s t : State} (h : DataEnd i s t) :
    (∃ e : Raise, t = raiseError i e s ∧ e.code ≠ .carryOverflow ∧
      (e.code = .outputOverflow → s.frozen.mode ≠ .none ∧ s.inLen.toNat ≤ s.params.inCap ∧
        ∃ r, dataResult i s.frozen (inputOperand s) = .bytes r ∧ s.params.outCap < r.length)) ∨
    (∃ n, t = reportAbsent n s) ∨ ∃ r, r.length ≤ s.params.outCap ∧ t = deliver r s := by
  obtain hmode | ⟨hmode, hle⟩ | ⟨hmode, hle, hn⟩ | ⟨hmode, hle, hr, hover⟩ | ⟨hmode, hle, hr, hfit⟩ := h
  · exact .inl ⟨_, rfl, nofun, nofun⟩
  · exact .inl ⟨_, rfl, nofun, nofun⟩
  · rw [reportInvalid]
    split
    · exact .inr (.inl ⟨_, rfl⟩)
    · exact .inl ⟨_, rfl, nofun, nofun⟩
  · exact .inl ⟨_, rfl, nofun, fun _ => ⟨hmode, hle, _, hr, hover⟩⟩
  · exact .inr (.inr ⟨_, hfit, rfl⟩)

/-- Everything a command can do where it answers a next state. -/
theorem exec_next_cases {i : Instr} {s t : State} (h : exec i s = .next t) :
    (i = .config ∧
      ((∃ f, construct s.alen.toNat s.alpha.take s.ctrl.rfc4648 = .ok f ∧ t = commitConfig f s) ∨
       ∃ e, construct s.alen.toNat s.alpha.take s.ctrl.rfc4648 = .error e ∧ t = raiseError .config e s)) ∨
    (i ≠ .config ∧ DataEnd i s t) := by
  by_cases hi : i = .config
  · subst hi
    obtain ⟨f, hf, hrun⟩ | ⟨e, he, hrun⟩ := execConfig_cases s <;> rw [exec, hrun] at h <;> cases h
    · exact .inl ⟨rfl, .inl ⟨f, hf, rfl⟩⟩
    · exact .inl ⟨rfl, .inr ⟨e, he, rfl⟩⟩
  · exact .inr ⟨hi, (exec_eq_next_iff hi).mp h⟩

/-- CONFIG's own errors leave the result of the command before it alone (60_exceptions.md R231 to R234). -/
theorem noResult_of_construct_error {n : Nat} {readAlphabet : Nat → List Byte} {rfc : Bool} {e : Raise}
    (h : construct n readAlphabet rfc = .error e) : noResult e.code = false := by
  obtain ⟨-, he⟩ | ⟨-, he⟩ | ⟨-, -, ⟨i, -, he⟩ | ⟨rev, -, ⟨-, -, he⟩ | ⟨-, he⟩⟩⟩ :=
    construct_cases n readAlphabet rfc <;> rw [he] at h <;> cases h <;> rfl

theorem exec_done_idle {i : Instr} {s t : State} (h : exec i s = .next t) : t.done = true ∧ t.phase = .idle := by
  obtain ⟨-, ⟨f, -, rfl⟩ | ⟨e, -, rfl⟩⟩ | ⟨-, hend⟩ := exec_next_cases h
  · simp
  · simp
  · obtain ⟨e, rfl, -⟩ | ⟨n, rfl⟩ | ⟨r, -, rfl⟩ := hend.shape <;> simp

theorem exec_err_ne_carryOverflow {i : Instr} {s t : State} (h : exec i s = .next t) : t.err ≠ .carryOverflow := by
  obtain ⟨-, ⟨f, -, rfl⟩ | ⟨e, he, rfl⟩⟩ | ⟨-, hend⟩ := exec_next_cases h
  · simp
  · have hcode := noResult_of_construct_error he
    rw [raiseError_err]
    rintro hcarry
    simp [hcarry, noResult] at hcode
  · obtain ⟨e, rfl, hcode, -⟩ | ⟨n, rfl⟩ | ⟨r, -, rfl⟩ := hend.shape
    · simpa using hcode
    · simp
    · simp

theorem exec_answers_next {i : Instr} {s : State} (hf : FrozenOk s.frozen) : ∃ t, exec i s = .next t := by
  by_cases hi : i = .config
  · subst hi
    obtain ⟨f, -, hrun⟩ | ⟨e, -, hrun⟩ := execConfig_cases s <;> exact ⟨_, hrun⟩
  · obtain hmode | hconf := hf
    · exact ⟨_, exec_unconfigured hi hmode⟩
    · rw [exec_configured hi hconf.1]
      obtain ⟨-, hrun⟩ | ⟨-, ⟨r, -, hrun⟩ | ⟨n, -, hrun⟩ | ⟨hcarry, -⟩⟩ :=
        runDecode_cases i (reportInvalid i) (dataResult i s.frozen) s
      · exact ⟨_, hrun⟩
      · exact ⟨_, hrun⟩
      · exact ⟨_, hrun⟩
      · exact absurd hcarry (dataResult_ne_carryOverflow hi hconf _)

/-- Settles O7: CONFIG never faults, and a data command's datapath leaves no carry over. -/
theorem everyCommandCompletes : Obligations.EveryCommandCompletes := by
  intro i s hf
  obtain ⟨t, ht⟩ := exec_answers_next hf
  obtain ⟨hdone, hphase⟩ := exec_done_idle ht
  exact ⟨t, ht, hdone, hphase, exec_err_ne_carryOverflow ht⟩

theorem dataResult_length_le {i : Instr} {f : Frozen} (hf : ConfiguredOk f) {b r : List Byte}
    (h : dataResult i f b = .bytes r) : r.length ≤ 8 * b.length := by
  have hdec : (decResult f b).getD .carryOverflow = .bytes r → r.length ≤ 8 * b.length := fun h => by
    rw [decResult_eq_codecDecode hf, Option.getD_some] at h
    have := length_le_of_decResult hf ((decResult_eq_codecDecode hf b).trans (congrArg some h))
    omega
  cases i with
  | config => cases h
  | encode =>
    have henc := encResult_eq_codecEncode hf b
    cases (dataResult_encode henc).symm.trans h
    exact length_le_of_encResult hf henc
  | decode => exact hdec h
  | decodeUnsafe => exact hdec h

/-- Settles O44: results are at most 8 characters a byte long, so none is longer than such an OUT. -/
theorem roomyOutputNeverOverflows : Obligations.RoomyOutputNeverOverflows := by
  refine ⟨fun f s r hf h => length_le_of_decResult hf h, fun f b e hf h => length_le_of_encResult hf h, ?_⟩
  intro i s t hf hroom h
  obtain ⟨-, ⟨f, -, rfl⟩ | ⟨e, he, rfl⟩⟩ | ⟨-, hend⟩ := exec_next_cases h
  · simp
  · have hcode := noResult_of_construct_error he
    rw [raiseError_err]
    rintro hover
    simp [hover, noResult] at hcode
  · obtain ⟨e, rfl, -, hover⟩ | ⟨n, rfl⟩ | ⟨r, -, rfl⟩ := hend.shape
    · rw [raiseError_err]
      intro hcode
      obtain ⟨hmode, hlen, r, hr, hlong⟩ := hover hcode
      have hle := dataResult_length_le (hf.resolve_left hmode) hr
      rw [inputOperand, Ram.take_length] at hle
      omega
    · simp
    · simp

/-- Settles O11: each state a command can end in differs from the one before in results alone. -/
theorem commandsWriteOnlyTheirResults : Obligations.CommandsWriteOnlyTheirResults := by
  intro i s t h
  obtain ⟨rfl, ⟨f, -, rfl⟩ | ⟨e, -, rfl⟩⟩ | ⟨hi, hend⟩ := exec_next_cases h
  · simp [InputsKept]
  · simp [InputsKept, raiseError_config]
  · refine ⟨?_, fun _ => ?_, fun hconfig => absurd hconfig hi⟩
    · obtain ⟨e, rfl, -⟩ | ⟨n, rfl⟩ | ⟨r, -, rfl⟩ := hend.shape <;> simp [InputsKept]
    · obtain ⟨e, rfl, -⟩ | ⟨n, rfl⟩ | ⟨r, -, rfl⟩ := hend.shape
      · simp [raiseError_data hi]
      · simp
      · simp

end Sys2Proof.Proofs
end

section
/-! Proofs about CONFIG's checks: the map loop fills the reverse map or meets the first repeated character, and the mode
is chosen by the size (40_config.md R113 to R118). -/

namespace Sys2Proof.Proofs

open Sys2Proof.Machine Sys2Proof.Claims

/-! ### The reverse map -/

theorem emptyReverse_eq : emptyReverse = reverseMapOf [] := by
  simp [emptyReverse, reverseMapOf, List.map_const']

@[simp] theorem length_reverseMapOf (alphabet : List Byte) : (reverseMapOf alphabet).length = 256 := by
  simp [reverseMapOf]

theorem getElem?_reverseMapOf (alphabet : List Byte) (c : Byte) :
    (reverseMapOf alphabet)[c.toNat]? =
      some (if c ∈ alphabet then BitVec.ofNat 8 (alphabet.idxOf c) else Config.invalid) := by
  simp [reverseMapOf, c.isLt]

/-- INVALID marks just the characters without an index. -/
theorem revLookup_reverseMapOf_eq_invalid_iff {alphabet : List Byte} (hlen : alphabet.length ≤ 255) (c : Byte) :
    revLookup (reverseMapOf alphabet) c = Config.invalid ↔ c ∉ alphabet := by
  rw [revLookup_reverseMapOf]
  split
  next hc =>
    have hlt := List.idxOf_lt_length_of_mem hc
    have hne : BitVec.ofNat 8 (alphabet.idxOf c) ≠ Config.invalid := by
      have hmax : Config.invalid.toNat = 255 := rfl
      rw [ne_eq, ← BitVec.toNat_inj, BitVec.toNat_ofNat, Nat.mod_eq_of_lt (by omega), hmax]
      omega
    simp [hne, hc]
  next hc => simp [hc]

/-- One turn of the map loop (40_config.md R113). -/
theorem reverseMapOf_set {alphabet : List Byte} {c : Byte} (hc : c ∉ alphabet) :
    (reverseMapOf alphabet).set c.toNat (BitVec.ofNat 8 alphabet.length) = reverseMapOf (alphabet ++ [c]) := by
  refine List.ext_getElem (by simp) fun j hj _ => ?_
  have hj256 : j < 256 := by simpa using hj
  rw [List.getElem_set]
  by_cases hjc : c.toNat = j
  · subst hjc
    simp [reverseMapOf, List.idxOf_append_of_notMem hc]
  · have hne : BitVec.ofNat 8 j ≠ c := by
      rintro rfl
      exact hjc (Nat.mod_eq_of_lt hj256)
    by_cases hmem : BitVec.ofNat 8 j ∈ alphabet
    · simp [reverseMapOf, hjc, hmem, List.idxOf_append_of_mem]
    · simp [reverseMapOf, hjc, hmem, hne]

/-- The map loop after the distinct characters `pre`: it maps the rest too, or stops at the first character that stands
earlier (40_config.md R113). -/
theorem buildReverse_cases {pre cs : List Byte} (hpre : pre.Nodup) (hlen : (pre ++ cs).length ≤ 255) :
    ((pre ++ cs).Nodup ∧ buildReverse pre.length cs (reverseMapOf pre) = .ok (reverseMapOf (pre ++ cs))) ∨
    ∃ mid c post, cs = mid ++ c :: post ∧ (pre ++ mid).Nodup ∧ c ∈ pre ++ mid ∧
      buildReverse pre.length cs (reverseMapOf pre) = .error (pre ++ mid).length := by
  induction cs generalizing pre with
  | nil => exact .inl (by simpa [buildReverse] using hpre)
  | cons c cs ih =>
    have hlookup := revLookup_reverseMapOf_eq_invalid_iff (alphabet := pre)
      (by rw [List.length_append] at hlen; omega) c
    by_cases hc : c ∈ pre
    · refine .inr ⟨[], c, cs, rfl, by simpa using hpre, by simpa using hc, ?_⟩
      rw [buildReverse, if_pos (by simpa [hlookup] using hc), List.append_nil]
    · have hnodup : (pre ++ [c]).Nodup := List.nodup_append_comm.mp (List.nodup_cons.mpr ⟨hc, hpre⟩)
      have hstep : buildReverse pre.length (c :: cs) (reverseMapOf pre) =
          buildReverse (pre ++ [c]).length cs (reverseMapOf (pre ++ [c])) := by
        rw [buildReverse, if_neg (by simpa [hlookup] using hc), reverseMapOf_set hc, List.length_append,
          List.length_singleton]
      rw [List.append_cons] at hlen ⊢
      rw [hstep]
      obtain hok | ⟨mid, d, post, rfl, hmid, hd, herr⟩ := ih hnodup hlen
      · exact .inl hok
      · exact .inr ⟨c :: mid, d, post, rfl, by simpa using hmid, by simpa using hd, by simpa using herr⟩

/-- The map loop over a whole alphabet. -/
theorem buildReverse_emptyReverse_cases {alphabet : List Byte} (hlen : alphabet.length ≤ 255) :
    (alphabet.Nodup ∧ buildReverse 0 alphabet emptyReverse = .ok (reverseMapOf alphabet)) ∨
    ∃ mid c post, alphabet = mid ++ c :: post ∧ mid.Nodup ∧ c ∈ mid ∧
      buildReverse 0 alphabet emptyReverse = .error mid.length := by
  rw [emptyReverse_eq]
  exact buildReverse_cases (pre := []) List.nodup_nil hlen

theorem not_nodup_of_split {alphabet mid post : List Byte} {c : Byte} (h : alphabet = mid ++ c :: post) (hc : c ∈ mid) :
    ¬ alphabet.Nodup := by
  rw [h]
  exact fun hnodup => (List.nodup_append.mp hnodup).2.2 c hc c List.mem_cons_self rfl

theorem buildReverse_of_nodup {alphabet : List Byte} (hlen : alphabet.length ≤ 255) (hnodup : alphabet.Nodup) :
    buildReverse 0 alphabet emptyReverse = .ok (reverseMapOf alphabet) := by
  obtain ⟨-, hok⟩ | ⟨mid, c, post, hsplit, -, hc, -⟩ := buildReverse_emptyReverse_cases hlen
  · exact hok
  · exact absurd hnodup (not_nodup_of_split hsplit hc)

theorem buildReverse_eq_ok {alphabet rev : List Byte} (hlen : alphabet.length ≤ 255)
    (h : buildReverse 0 alphabet emptyReverse = .ok rev) : alphabet.Nodup ∧ rev = reverseMapOf alphabet := by
  obtain ⟨hnodup, hok⟩ | ⟨mid, c, post, -, -, -, herr⟩ := buildReverse_emptyReverse_cases hlen
  · rw [hok] at h
    exact ⟨hnodup, (Except.ok.inj h).symm⟩
  · rw [herr] at h
    cases h

/-! ### The mode -/

theorem isPowerOfTwo_iff {n : Nat} (hn : n ≠ 0) : Machine.isPowerOfTwo n = true ↔ ∃ k, n = 2 ^ k := by
  rw [Machine.isPowerOfTwo, beq_iff_eq]
  exact Nat.and_sub_one_eq_zero_iff_isPowerOfTwo hn

@[simp] theorem isPowerOfTwo_two_pow (k : Nat) : Machine.isPowerOfTwo (2 ^ k) = true :=
  (isPowerOfTwo_iff (Nat.two_pow_pos k).ne').mpr ⟨k, rfl⟩

@[simp] theorem selectMode_two_pow (k : Nat) (rfc : Bool) :
    selectMode (2 ^ k) rfc = if rfc then .quantized else .bitwise := by
  simp [selectMode]

@[simp] theorem selectK_two_pow (k : Nat) : selectK (2 ^ k) = k := by
  simp [selectK, Nat.log2_two_pow]

theorem select_of_not_two_pow {n : Nat} (hn : n ≠ 0) (h : ∀ k, n ≠ 2 ^ k) (rfc : Bool) :
    selectMode n rfc = .generic ∧ selectK n = 0 := by
  have hpow : ¬ Machine.isPowerOfTwo n = true := fun hpow => by
    obtain ⟨k, hk⟩ := (isPowerOfTwo_iff hn).mp hpow
    exact h k hk
  simp [selectMode, selectK, hpow]

/-! ### The configuration made of a valid alphabet -/

/-- What CONFIG freezes of a valid alphabet (40_config.md R115 to R117, R120). -/
def frozenFrom (alphabet : List Byte) (rfc : Bool) : Frozen :=
  { falpha := alphabet
    fn := alphabet.length
    fleader := alphabet.headD 0
    revmap := reverseMapOf alphabet
    mode := selectMode alphabet.length rfc
    fk := selectK alphabet.length
    fmask := 2 ^ selectK alphabet.length - 1 }

/-- CONFIG accepts an alphabet of 2 to 254 distinct characters, without the pad where it would be QUANTIZED. -/
structure ValidAlphabet (alphabet : List Byte) (rfc : Bool) : Prop where
  two_le : 2 ≤ alphabet.length
  length_le : alphabet.length ≤ 254
  nodup : alphabet.Nodup
  pad_notMem : selectMode alphabet.length rfc = .quantized → Config.pad ∉ alphabet

theorem construct_of_valid {n : Nat} {readAlphabet : Nat → List Byte} {rfc : Bool} (hn : (readAlphabet n).length = n)
    (h : ValidAlphabet (readAlphabet n) rfc) :
    construct n readAlphabet rfc = .ok (frozenFrom (readAlphabet n) rfc) := by
  obtain ⟨htwo, hle, hnodup, hpad⟩ := h
  have hbuild := buildReverse_of_nodup (by omega) hnodup
  have hlookup := revLookup_reverseMapOf_eq_invalid_iff (alphabet := readAlphabet n) (by omega) Config.pad
  obtain ⟨hlong, -⟩ | ⟨hshort, -⟩ | ⟨-, -, ⟨i, herr, -⟩ | ⟨rev, hok, hrest⟩⟩ := construct_cases n readAlphabet rfc
  · omega
  · omega
  · rw [hbuild] at herr
    cases herr
  · rw [hbuild] at hok
    cases hok
    obtain ⟨hmode, hfound, -⟩ | ⟨-, hfrozen⟩ := hrest
    · rw [hn] at hpad
      exact absurd (hlookup.mpr (hpad hmode)) hfound
    · rw [hfrozen, frozenFrom, hn]

theorem construct_eq_ok {n : Nat} {readAlphabet : Nat → List Byte} {rfc : Bool} {f : Frozen}
    (hn : (readAlphabet n).length = n) (h : construct n readAlphabet rfc = .ok f) :
    ValidAlphabet (readAlphabet n) rfc ∧ f = frozenFrom (readAlphabet n) rfc := by
  obtain ⟨-, herr⟩ | ⟨-, herr⟩ | ⟨htwo, hle, ⟨i, -, herr⟩ | ⟨rev, hok, ⟨-, -, herr⟩ | ⟨hpad, hfrozen⟩⟩⟩ :=
    construct_cases n readAlphabet rfc
  · rw [herr] at h
    cases h
  · rw [herr] at h
    cases h
  · rw [herr] at h
    cases h
  · rw [herr] at h
    cases h
  · obtain ⟨hnodup, rfl⟩ := buildReverse_eq_ok (by omega) hok
    have hlookup := revLookup_reverseMapOf_eq_invalid_iff (alphabet := readAlphabet n) (by omega) Config.pad
    have hvalid : ValidAlphabet (readAlphabet n) rfc := by
      refine ⟨by omega, by omega, hnodup, fun hmode => hlookup.mp (not_not.mp fun hfound => hpad ⟨?_, hfound⟩)⟩
      rwa [hn] at hmode
    exact ⟨hvalid, Except.ok.inj (h.symm.trans (construct_of_valid hn hvalid))⟩

theorem modeOk_frozenFrom {alphabet : List Byte} {rfc : Bool} (h : ValidAlphabet alphabet rfc) :
    (frozenFrom alphabet rfc).mode ≠ .none ∧ ModeOk (frozenFrom alphabet rfc) := by
  obtain ⟨htwo, hle, -, hpad⟩ := h
  by_cases hpow : ∃ k, alphabet.length = 2 ^ k
  · obtain ⟨k, hk⟩ := hpow
    have hk1 : 1 ≤ k := Nat.one_le_iff_ne_zero.mpr (by rintro rfl; omega)
    have hk7 : k ≤ 7 := by
      by_contra hgt
      have := Nat.pow_le_pow_right (show 0 < 2 by decide) (show 8 ≤ k by omega)
      omega
    cases rfc with
    | false => simp [frozenFrom, ModeOk, hk, hk1, hk7]
    | true =>
      have hpad' : Config.pad ∉ alphabet := hpad (by rw [hk, selectMode_two_pow, if_pos rfl])
      simp [frozenFrom, ModeOk, hk, hk1, hk7, hpad']
  · obtain ⟨hmode, hk⟩ := select_of_not_two_pow (by omega) (fun k hk => hpow ⟨k, hk⟩) rfc
    simpa [frozenFrom, ModeOk, hmode, hk] using fun k _ h => hpow ⟨k, h⟩

theorem configuredOk_frozenFrom {alphabet : List Byte} {rfc : Bool} (h : ValidAlphabet alphabet rfc) :
    ConfiguredOk (frozenFrom alphabet rfc) := by
  obtain ⟨hmode, hmodeOk⟩ := modeOk_frozenFrom h
  obtain ⟨htwo, hle, hnodup, -⟩ := h
  have hhead : alphabet.head? = some (alphabet.headD 0) := by
    cases alphabet with
    | nil => simp at htwo
    | cons c cs => rfl
  exact ⟨hmode, htwo, hle, rfl, hnodup, hhead, rfl, rfl, hmodeOk⟩

end Sys2Proof.Proofs
end

section
/-! Proofs about the CONFIG command: what it freezes, which error it raises, and that it looks at its operands alone
(40_config.md R110 to R121; 45_commands.md R210). -/

namespace Sys2Proof.Proofs

open Sys2Proof.Machine Sys2Proof.Claims

theorem exec_config_of_ok {s : State} {f : Frozen}
    (h : construct s.alen.toNat s.alpha.take s.ctrl.rfc4648 = .ok f) : exec .config s = .next (commitConfig f s) := by
  rw [exec, execConfig, h]

theorem exec_config_of_error {s : State} {code : ErrCode} {pos : Nat}
    (h : construct s.alen.toNat s.alpha.take s.ctrl.rfc4648 = .error { code := code, pos := pos, base := 0 }) :
    exec .config s = .next (configFailed code (BitVec.ofNat 16 pos) s) := by
  rw [exec, execConfig, h]
  rfl

/-- Settles O14: the length is checked first. -/
theorem configRejectsLongAlphabets : Obligations.ConfigRejectsLongAlphabets := fun _ hlong =>
  exec_config_of_error (if_pos hlong)

/-- Settles O15: the length is checked before ALPHA is read. -/
theorem configRejectsShortAlphabets : Obligations.ConfigRejectsShortAlphabets := fun s hshort =>
  exec_config_of_error ((if_neg (show ¬ 255 ≤ s.alen.toNat by omega)).trans (if_pos hshort))

/-- Past the length checks a repeated character ends CONFIG. -/
theorem construct_of_repeated {n : Nat} {readAlphabet : Nat → List Byte} {rfc : Bool} (htwo : 2 ≤ n) (hle : n ≤ 254)
    {i : Nat} (h : buildReverse 0 (readAlphabet n) emptyReverse = .error i) :
    construct n readAlphabet rfc = .error { code := .ambiguousAlphabet, pos := i, base := 0 } := by
  obtain ⟨hlong, -⟩ | ⟨hshort, -⟩ | ⟨-, -, ⟨j, hj, herr⟩ | ⟨rev, hok, -⟩⟩ := construct_cases n readAlphabet rfc
  · omega
  · omega
  · rw [h] at hj
    cases hj
    exact herr
  · rw [h] at hok
    cases hok

theorem getElem?_take {r : Ram} {n k : Nat} (hk : k < n) : (r.take n)[k]? = some (r.read k) := by
  simp [Ram.take, hk]

/-- Two characters of an alphabet that has a first repeated one at `i`, and a split before its first repeated one, split
at `i`. -/
theorem length_eq_of_first_repeated {r : Ram} {n i : Nat} (hrep : ∃ j < i, r.read j = r.read i)
    (hfirst : ∀ i' < i, ∀ j < i', r.read j ≠ r.read i') {mid post : List Byte} {c : Byte}
    (hsplit : r.take n = mid ++ c :: post) (hnodup : mid.Nodup) (hc : c ∈ mid) : mid.length = i := by
  have hlen : n = mid.length + (post.length + 1) := by simpa using congrArg List.length hsplit
  have hmid : ∀ k (hk : k < mid.length), r.read k = mid[k] := fun k hk => by
    have hget := getElem?_take (r := r) (show k < n by omega)
    rw [hsplit, List.getElem?_append_left hk, List.getElem?_eq_getElem hk] at hget
    exact (Option.some.inj hget).symm
  have hend : r.read mid.length = c := by
    have hget := getElem?_take (r := r) (show mid.length < n by omega)
    rw [hsplit] at hget
    simpa using hget.symm
  obtain ⟨k, hk, rfl⟩ := List.getElem_of_mem hc
  obtain ⟨j, hj, hrep⟩ := hrep
  obtain hlt | heq | hgt := Nat.lt_trichotomy mid.length i
  · exact absurd ((hmid k hk).trans hend.symm) (hfirst mid.length hlt k hk)
  · exact heq
  · rw [hmid j (by omega), hmid i hgt] at hrep
    exact absurd ((hnodup.getElem_inj_iff).mp hrep) (by omega)

/-- Settles O16: the map loop stops at the first character that stands earlier, which is at i. -/
theorem configReportsFirstRepeatedCharacter : Obligations.ConfigReportsFirstRepeatedCharacter := by
  intro s i htwo hle hi hrep hfirst
  have hlen : (s.alpha.take s.alen.toNat).length ≤ 255 := by
    rw [Ram.take_length]
    omega
  obtain ⟨hnodup, -⟩ | ⟨mid, c, post, hsplit, hmid, hc, herr⟩ := buildReverse_emptyReverse_cases hlen
  · obtain ⟨j, hj, hrep⟩ := hrep
    have hget : (s.alpha.take s.alen.toNat)[j]? = (s.alpha.take s.alen.toNat)[i]? := by
      rw [getElem?_take (hj.trans hi), getElem?_take hi, hrep]
    have hji : j = i := (List.getElem?_inj (by simpa using hj.trans hi) hnodup).mp hget
    omega
  · rw [length_eq_of_first_repeated hrep hfirst hsplit hmid hc] at herr
    exact exec_config_of_error (construct_of_repeated htwo hle herr)

/-- Settles O17: the reverse map of distinct characters holds the index of the pad. -/
theorem configRejectsPadInQuantizedAlphabet : Obligations.ConfigRejectsPadInQuantizedAlphabet := by
  intro s k i hk1 hk7 hn hrfc hnodup hi hpad
  have htwo : 2 ^ 1 ≤ 2 ^ k := Nat.pow_le_pow_right (by decide) hk1
  have hle : 2 ^ k ≤ 2 ^ 7 := Nat.pow_le_pow_right (by decide) hk7
  have hlen : (s.alpha.take s.alen.toNat).length ≤ 255 := by
    rw [Ram.take_length]
    omega
  have hget : (s.alpha.take s.alen.toNat)[i]'(by simpa using hi) = Config.pad := by
    rw [Ram.take_getElem, hpad]
    rfl
  have hmem : Config.pad ∈ s.alpha.take s.alen.toNat := hget ▸ List.getElem_mem _
  have hidx : (s.alpha.take s.alen.toNat).idxOf Config.pad = i := hget ▸ hnodup.idxOf_getElem i _
  have hpos : (revLookup (reverseMapOf (s.alpha.take s.alen.toNat)) Config.pad).toNat = i := by
    rw [revLookup_reverseMapOf, if_pos hmem, hidx, BitVec.toNat_ofNat]
    exact Nat.mod_eq_of_lt (by omega)
  have hbuild := buildReverse_of_nodup hlen hnodup
  obtain ⟨hlong, -⟩ | ⟨hshort, -⟩ | ⟨-, -, ⟨j, herr, -⟩ | ⟨rev, hok, hrest⟩⟩ :=
    construct_cases s.alen.toNat s.alpha.take s.ctrl.rfc4648
  · omega
  · omega
  · rw [hbuild] at herr
    cases herr
  · rw [hbuild] at hok
    cases hok
    obtain ⟨-, -, herr⟩ | ⟨haccepted, -⟩ := hrest
    · rw [hpos] at herr
      exact exec_config_of_error herr
    · refine absurd ⟨?_, ?_⟩ haccepted
      · rw [hn, selectMode_two_pow, hrfc, if_pos rfl]
      · exact (revLookup_reverseMapOf_eq_invalid_iff hlen Config.pad).not.mpr (not_not.mpr hmem)

/-! ### Success -/

/-- The reverse map that a valid alphabet is frozen with, as the statements describe it (10_state.md R43). -/
theorem reverseMapOf_take_spec {r : Ram} {n : Nat} (hnodup : (r.take n).Nodup) :
    (reverseMapOf (r.take n)).length = 256 ∧
    (∀ i < n, (reverseMapOf (r.take n))[(r.read i).toNat]? = some (BitVec.ofNat 8 i)) ∧
    ∀ c : Byte, c ∉ r.take n → (reverseMapOf (r.take n))[c.toNat]? = some 0xFF := by
  refine ⟨length_reverseMapOf _, fun i hi => ?_, fun c hc => ?_⟩
  · have hget : (r.take n)[i]'(by simpa using hi) = r.read i := Ram.take_getElem r n i _
    have hidx : (r.take n).idxOf (r.read i) = i := hget ▸ hnodup.idxOf_getElem i _
    rw [getElem?_reverseMapOf, if_pos (hget ▸ List.getElem_mem _), hidx]
  · rw [getElem?_reverseMapOf, if_neg hc]
    rfl

theorem headD_take {r : Ram} {n : Nat} (hn : 0 < n) : (r.take n).headD 0 = r.read 0 := by
  obtain ⟨m, rfl⟩ := Nat.exists_eq_succ_of_ne_zero hn.ne'
  simp [Ram.take, List.range_succ_eq_map]

/-- CONFIG freezes a valid alphabet. -/
theorem exec_config_of_valid {s : State} (h : ValidAlphabet (s.alpha.take s.alen.toNat) s.ctrl.rfc4648) :
    exec .config s = .next (commitConfig (frozenFrom (s.alpha.take s.alen.toNat) s.ctrl.rfc4648) s) :=
  exec_config_of_ok (construct_of_valid (Ram.take_length _ _) h)

/-- Settles O18: a valid alphabet of 2^k characters passes every check, and its size selects the mode and k. -/
theorem configFreezesPowerOfTwoAlphabets : Obligations.ConfigFreezesPowerOfTwoAlphabets := by
  intro s k hk1 hk7 hn hnodup hpad
  have htwo : 2 ^ 1 ≤ 2 ^ k := Nat.pow_le_pow_right (by decide) hk1
  have hle : 2 ^ k ≤ 2 ^ 7 := Nat.pow_le_pow_right (by decide) hk7
  have hvalid : ValidAlphabet (s.alpha.take s.alen.toNat) s.ctrl.rfc4648 := by
    refine ⟨?_, ?_, hnodup, fun hmode => hpad ?_⟩
    · rw [Ram.take_length]
      omega
    · rw [Ram.take_length]
      omega
    · rw [Ram.take_length, hn, selectMode_two_pow] at hmode
      by_contra hrfc
      rw [if_neg hrfc] at hmode
      cases hmode
  obtain ⟨hlen, hchars, hothers⟩ := reverseMapOf_take_spec hnodup
  refine ⟨_, hlen, hchars, hothers, (exec_config_of_valid hvalid).trans ?_⟩
  rw [frozenFrom, Ram.take_length, headD_take (by omega), hn, selectMode_two_pow, selectK_two_pow]
  rfl

/-- Settles O19: a valid alphabet of any other size passes every check, and its size selects GENERIC mode. -/
theorem configFreezesOtherAlphabetsAsGeneric : Obligations.ConfigFreezesOtherAlphabetsAsGeneric := by
  intro s hthree hle hpow hnodup
  obtain ⟨hmode, hk⟩ := select_of_not_two_pow (by omega) hpow s.ctrl.rfc4648
  have hvalid : ValidAlphabet (s.alpha.take s.alen.toNat) s.ctrl.rfc4648 := by
    refine ⟨?_, ?_, hnodup, fun hquantized => ?_⟩
    · rw [Ram.take_length]
      omega
    · rw [Ram.take_length]
      omega
    · rw [Ram.take_length, hmode] at hquantized
      cases hquantized
  obtain ⟨hlen, hchars, hothers⟩ := reverseMapOf_take_spec hnodup
  refine ⟨_, hlen, hchars, hothers, (exec_config_of_valid hvalid).trans ?_⟩
  rw [frozenFrom, Ram.take_length, headD_take (by omega), hmode, hk]
  rfl

/-- ALPHA is read only where the length is admissible. -/
theorem construct_congr {n : Nat} {read₁ read₂ : Nat → List Byte} (rfc : Bool)
    (h : n ≤ 254 → read₁ n = read₂ n) : construct n read₁ rfc = construct n read₂ rfc := by
  by_cases hlong : 255 ≤ n
  · rw [construct, construct, if_pos hlong, if_pos hlong]
  · rw [construct, construct, h (by omega)]

/-- Settles O13: CONFIG's rule answers the same where its operands agree, and the outcome is that answer. -/
theorem configOutcomeDependsOnlyOnItsOperands : Obligations.ConfigOutcomeDependsOnlyOnItsOperands := by
  intro s₁ s₂ t₁ t₂ halen hrfc hread herrinfo h₁ h₂
  have hsame : construct s₁.alen.toNat s₁.alpha.take s₁.ctrl.rfc4648 =
      construct s₂.alen.toNat s₂.alpha.take s₂.ctrl.rfc4648 := by
    rw [← halen, ← hrfc]
    exact construct_congr _ fun hle => Ram.take_congr (hread hle)
  obtain ⟨-, ⟨f₁, hf₁, rfl⟩ | ⟨e₁, he₁, rfl⟩⟩ | ⟨hne, -⟩ := exec_next_cases h₁
  · rw [exec_config_of_ok (hsame ▸ hf₁)] at h₂
    cases h₂
    simp [herrinfo]
  · rw [exec, execConfig, ← hsame, he₁] at h₂
    cases h₂
    simp [raiseError_config]
  · exact absurd rfl hne

end Sys2Proof.Proofs
end

section
/-! Proofs about the window map the other way round, and everything a host access or a reset event can do (20_memory.md
R62 to R68; 70_reset_and_hazards.md R260). -/

namespace Sys2Proof.Proofs

open Sys2Proof.Machine Sys2Proof.Claims

/-! ### The window map -/

/-- The offset of a register (10_state.md section 2). -/
def regOffset : HostReg → Offset
  | .id => 0x00
  | .ctrl => 0x04
  | .alen => 0x08
  | .cmd => 0x0C
  | .status => 0x10
  | .inLen => 0x14
  | .outLen => 0x18
  | .errinfo => 0x1C
  | .leader => 0x20
  | .nbase => 0x24
  | .incap => 0x28
  | .outcap => 0x2C

@[simp] theorem target_regOffset (p : Params) (r : HostReg) : target p 4 (regOffset r) = .reg r := by
  cases r <;> rfl

theorem eq_regOffset_of_regAt {off : Offset} {r : HostReg} (h : regAt off.toNat = some r) : off = regOffset r := by
  refine BitVec.eq_of_toNat_eq ?_
  unfold regAt at h
  split at h <;> cases h <;> assumption

/-- What an access that reaches a register or a RAM byte looks like; of the other targets nothing is said. -/
def Reaches (p : Params) (size : Nat) (off : Offset) : Target → Prop
  | .reg r => size = 4 ∧ off = regOffset r
  | .alpha b => size = 4 ∧ InAlpha off ∧ b = off.toNat - 0x100
  | .inp b => size = 4 ∧ InIn p off ∧ b = off.toNat - 0x10000
  | .out b => size = 4 ∧ InOut p off ∧ b = off.toNat - 0x20000
  | .reserved => True
  | .unmapped => True

theorem reaches_target (p : Params) (size : Nat) (off : Offset) : Reaches p size off (target p size off) := by
  rw [target]
  split
  next hword =>
    obtain ⟨hsize, halign⟩ := hword
    rw [targetAt]
    cases hreg : regAt off.toNat with
    | some r => exact ⟨hsize, eq_regOffset_of_regAt hreg⟩
    | none =>
      simp only
      split
      · trivial
      split
      next hlow hhigh => exact ⟨hsize, ⟨halign, Nat.le_of_not_lt hlow, hhigh⟩, rfl⟩
      split
      next hin => exact ⟨hsize, ⟨halign, hin⟩, rfl⟩
      split
      next hout => exact ⟨hsize, ⟨halign, hout⟩, rfl⟩
      · trivial
  · trivial

/-! ### Host writes -/

@[simp] theorem writeTarget_ctrl (v : Word) (s : State) :
    writeTarget (.reg .ctrl) v s = unlessBusy (fun s => { s with ctrl := ctrlOfWord v }) s := rfl

@[simp] theorem writeTarget_alen (v : Word) (s : State) :
    writeTarget (.reg .alen) v s = unlessBusy (fun s => { s with alen := v }) s := rfl

@[simp] theorem writeTarget_inLen (v : Word) (s : State) :
    writeTarget (.reg .inLen) v s = unlessBusy (fun s => { s with inLen := v }) s := rfl

@[simp] theorem writeTarget_cmd (v : Word) (s : State) : writeTarget (.reg .cmd) v s = unlessBusy (issue v) s := rfl

@[simp] theorem writeTarget_status (v : Word) (s : State) : writeTarget (.reg .status) v s = writeStatus v s := rfl

@[simp] theorem writeTarget_alpha (b : Nat) (v : Word) (s : State) :
    writeTarget (.alpha b) v s = unlessBusy (fun s => { s with alpha := s.alpha.writeWord b v }) s := rfl

@[simp] theorem writeTarget_inp (b : Nat) (v : Word) (s : State) :
    writeTarget (.inp b) v s = unlessBusy (fun s => { s with inp := s.inp.writeWord b v }) s := rfl

/-- Everything a host write can do (20_memory.md R65, R67, R68). -/
inductive WriteEffect (size : Nat) (off : Offset) (v : Word) (s : State) : State → Prop
  | ignored : WriteEffect size off v s s
  | error : WriteEffect size off v s (setHerr s)
  | status (hsize : size = 4) (hoff : off = 0x10) : WriteEffect size off v s (writeStatus v s)
  | issued (hidle : s.phase = .idle) (hsize : size = 4) (hoff : off = 0x0C) : WriteEffect size off v s (issue v s)
  | ctrl (hidle : s.phase = .idle) : WriteEffect size off v s { s with ctrl := ctrlOfWord v }
  | alen (hidle : s.phase = .idle) : WriteEffect size off v s { s with alen := v }
  | inLen (hidle : s.phase = .idle) : WriteEffect size off v s { s with inLen := v }
  | alpha (hidle : s.phase = .idle) {b : Nat} (halign : b % 4 = 0) (hb : b < 256) :
      WriteEffect size off v s { s with alpha := s.alpha.writeWord b v }
  | inp (hidle : s.phase = .idle) {b : Nat} (halign : b % 4 = 0) (hb : b < s.params.inCap) :
      WriteEffect size off v s { s with inp := s.inp.writeWord b v }

theorem WriteEffect.of_unlessBusy {size : Nat} {off : Offset} {v : Word} {s : State} {write : State → State}
    (h : s.phase = .idle → WriteEffect size off v s (write s)) : WriteEffect size off v s (unlessBusy write s) := by
  obtain ⟨-, hdropped⟩ | ⟨hidle, hdone⟩ := unlessBusy_cases write s
  · exact hdropped ▸ .error
  · exact hdone ▸ h hidle

theorem hostWrite_effect (size : Nat) (off : Offset) (v : Word) (s : State) :
    WriteEffect size off v s (hostWrite size off v s) := by
  have hreaches := reaches_target s.params size off
  rw [hostWrite]
  cases htarget : target s.params size off with
  | reg r =>
    rw [htarget] at hreaches
    obtain ⟨hsize, hoff⟩ := hreaches
    cases r with
    | ctrl =>
      rw [writeTarget_ctrl]
      exact .of_unlessBusy .ctrl
    | alen =>
      rw [writeTarget_alen]
      exact .of_unlessBusy .alen
    | inLen =>
      rw [writeTarget_inLen]
      exact .of_unlessBusy .inLen
    | cmd =>
      rw [writeTarget_cmd]
      exact .of_unlessBusy fun hidle => .issued hidle hsize hoff
    | status =>
      rw [writeTarget_status]
      exact .status hsize hoff
    | id | outLen | errinfo | leader | nbase | incap | outcap => exact .ignored
  | alpha b =>
    rw [htarget] at hreaches
    obtain ⟨-, ⟨halign, hlow, hhigh⟩, hb⟩ := hreaches
    have halign' : b % 4 = 0 := by omega
    have hbelow : b < 256 := by omega
    rw [writeTarget_alpha]
    exact .of_unlessBusy fun hidle => .alpha hidle halign' hbelow
  | inp b =>
    rw [htarget] at hreaches
    obtain ⟨-, ⟨halign, hlow, hhigh⟩, hb⟩ := hreaches
    have halign' : b % 4 = 0 := by omega
    have hbelow : b < s.params.inCap := by omega
    rw [writeTarget_inp]
    exact .of_unlessBusy fun hidle => .inp hidle halign' hbelow
  | reserved => exact .ignored
  | out b => exact .error
  | unmapped => exact .error

/-! ### Events -/

/-- Everything an event at the block's inputs can do (20_memory.md R64 to R68; 70_reset_and_hazards.md R260). -/
inductive EventEffect (s : State) : HostEvent → State → Prop
  | void {e : HostEvent} : EventEffect s e s
  | read {size : Nat} {off : Offset} (v : Word) : EventEffect s (.read size off) (reply v s)
  | draw (hheld : s.resetHeld = false) {size : Nat} {off : Offset} (v : Word) :
      EventEffect s (.read size off) (reply v { s with draws := s.draws + 1 })
  | badRead (hheld : s.resetHeld = false) {size : Nat} {off : Offset} :
      EventEffect s (.read size off) (reply 0 (setHerr s))
  | write (hheld : s.resetHeld = false) {size : Nat} {off : Offset} {v : Word} {t : State}
      (h : WriteEffect size off v s t) : EventEffect s (.write size off v) t
  | assertReset : EventEffect s .assertReset (hardReset true s)
  | releaseReset (hheld : s.resetHeld = true) : EventEffect s .releaseReset (hardReset false s)

theorem hostEvent_effect (e : HostEvent) (s : State) : EventEffect s e (hostEvent e s) := by
  cases hheld : s.resetHeld with
  | true =>
    obtain ⟨hread, hwrite, hassert, hrelease⟩ := hostEvent_held hheld
    cases e with
    | read size off => exact hread size off ▸ .read _
    | write size off v => exact (hwrite size off v).symm ▸ .void
    | assertReset => exact hassert ▸ .assertReset
    | releaseReset => exact hrelease ▸ .releaseReset hheld
  | false =>
    obtain ⟨hread, hwrite, hassert, hrelease⟩ := hostEvent_released hheld
    cases e with
    | read size off =>
      rw [hread, hostRead]
      obtain ⟨-, heq⟩ | ⟨-, heq⟩ | ⟨-, -, heq⟩ := readTarget_cases (target s.params size off) s <;> rw [heq]
      · exact .draw hheld _
      · exact .badRead hheld
      · exact .read _
    | write size off v => exact hwrite size off v ▸ .write hheld (hostWrite_effect size off v s)
    | assertReset => exact hassert ▸ .assertReset
    | releaseReset => exact hrelease.symm ▸ .void

/-! ### Steps -/

theorem step_eq_exec {s : State} {op : Instr} (hbusy : s.phase = .busy op) (hdelay : s.delay = 0)
    (hheld : s.resetHeld = false) : step s = exec op s := by
  simp [step, engineReady, hbusy, hdelay, hheld]

theorem step_eq_hostTurn {s : State} (h : s.phase = .idle ∨ 0 < s.delay ∨ s.resetHeld = true) :
    step s = .next (hostTurn s) := by
  obtain ⟨op, hbusy, hdelay, hheld, -⟩ | ⟨-, hturn⟩ := step_cases s
  · simp [hbusy, hdelay, hheld] at h
  · exact hturn

/-- Everything a step can do where it answers a next state. -/
theorem step_next_cases {s t : State} (h : step s = .next t) :
    (∃ op, s.phase = .busy op ∧ s.delay = 0 ∧ s.resetHeld = false ∧ exec op s = .next t) ∨
    ((s.phase = .idle ∨ 0 < s.delay ∨ s.resetHeld = true) ∧
      ((s.pending = [] ∧ t = { s with delay := s.delay - 1 }) ∨
       ∃ e rest, s.pending = e :: rest ∧
        EventEffect { s with delay := s.delay - 1, pending := rest } e t)) := by
  obtain ⟨op, hbusy, hdelay, hheld, hexec⟩ | ⟨hturn, hstep⟩ := step_cases s
  · exact .inl ⟨op, hbusy, hdelay, hheld, hexec ▸ h⟩
  · rw [hstep] at h
    cases h
    refine .inr ⟨hturn, ?_⟩
    obtain ⟨hnone, heq⟩ | ⟨e, rest, hpending, heq⟩ := hostTurn_cases s
    · exact .inl ⟨hnone, heq⟩
    · exact .inr ⟨e, rest, hpending, heq ▸ hostEvent_effect e _⟩

/-- Settles O5: both clauses are the step of an engine that is due. -/
theorem stepRunsTheLatchedCommand : Obligations.StepRunsTheLatchedCommand := by
  refine ⟨fun s i hbusy hdelay hheld => step_eq_exec hbusy hdelay hheld, fun s w i hword => ?_⟩
  rw [decodeTableWord_eq_some_iff] at hword
  obtain ⟨⟨r, herr⟩, -⟩ | ⟨op, hok, hload⟩ := loadCommand_cases (tableWord 32 w) s
  · rw [herr] at hword
    cases hword
  · rw [hok] at hword
    cases hword
    rw [State.withFetchWord, hload]
    exact ⟨rfl, rfl, step_eq_exec rfl rfl rfl⟩

/-- Settles O6: an engine that is not due leaves the step to the host's oldest event. -/
theorem stepServesTheOldestHostEvent : Obligations.StepServesTheOldestHostEvent := by
  have hserve : ∀ s : State, s.phase = .idle ∨ 0 < s.delay ∨ s.resetHeld = true → ∀ e rest, s.pending = e :: rest →
      step s = .next (hostEvent e { s with delay := s.delay - 1, pending := rest }) := by
    intro s hturn e rest hpending
    rw [step_eq_hostTurn hturn, hostTurn, hpending]
  refine ⟨fun s hturn => ⟨fun hnone => ?_, hserve s hturn, fun hheld => ⟨fun size off rest hpending => ?_,
    fun size off v rest hpending => ?_⟩⟩, fun s hheld => ?_⟩
  · rw [step_eq_hostTurn hturn, hostTurn, hnone]
  · rw [hserve s hturn _ rest hpending]
    obtain ⟨hread, -⟩ := hostEvent_released (s := { s with delay := s.delay - 1, pending := rest }) hheld
    rw [hread]
  · rw [hserve s hturn _ rest hpending]
    obtain ⟨-, hwrite, -⟩ := hostEvent_released (s := { s with delay := s.delay - 1, pending := rest }) hheld
    rw [hwrite]
  · obtain ⟨hread, hwrite, -, hrelease⟩ := hostEvent_released hheld
    exact ⟨hread, hwrite, hrelease⟩

end Sys2Proof.Proofs
end

section
/-! Proofs about a running command: the host's turns leave its operands and results alone, so it completes after its
delay on the operands as they stood at issue (20_memory.md R68, R73; 45_commands.md R201). -/

namespace Sys2Proof.Proofs

open Sys2Proof.Machine Sys2Proof.Claims

/-- `t` is `s` but for DONE, HERR, the host's replies and the supply of free values. -/
structure Undisturbed (s t : State) : Prop where
  resetHeld : t.resetHeld = s.resetHeld
  phase : t.phase = s.phase
  params : t.params = s.params
  ctrl : t.ctrl = s.ctrl
  alen : t.alen = s.alen
  inLen : t.inLen = s.inLen
  alpha : t.alpha = s.alpha
  inp : t.inp = s.inp
  frozen : t.frozen = s.frozen
  out : t.out = s.out
  outLen : t.outLen = s.outLen
  err : t.err = s.err
  errinfo : t.errinfo = s.errinfo
  absent : t.absent = s.absent
  delay : t.delay = s.delay
  pending : t.pending = s.pending

theorem WriteEffect.undisturbed {size : Nat} {off : Offset} {v : Word} {s t : State} (h : WriteEffect size off v s t)
    (hbusy : s.phase ≠ .idle) : Undisturbed s t := by
  cases h with
  | ignored => constructor <;> rfl
  | error => constructor <;> rfl
  | status => constructor <;> rfl
  | issued hidle | ctrl hidle | alen hidle | inLen hidle | alpha hidle | inp hidle => exact absurd hidle hbusy

theorem EventEffect.undisturbed {e : HostEvent} {s t : State} (h : EventEffect s e t) (hbusy : s.phase ≠ .idle)
    (hheld : s.resetHeld = false) (he : e ≠ .assertReset) : Undisturbed s t := by
  cases h with
  | void => constructor <;> rfl
  | read => constructor <;> rfl
  | draw => constructor <;> rfl
  | badRead => constructor <;> rfl
  | write _ h => exact h.undisturbed hbusy
  | assertReset => exact absurd rfl he
  | releaseReset hheld' => simp [hheld] at hheld'

/-- The state in which the next event is served. -/
def servingNext (s : State) : State :=
  { s with delay := s.delay - 1, pending := s.pending.tail }

/-- A host turn of a running command that is no assertion of reset only serves the host. -/
theorem undisturbed_of_step {s t : State} {op : Instr} (hbusy : s.phase = .busy op) (hdelay : 0 < s.delay)
    (hheld : s.resetHeld = false) (hevent : ∀ e rest, s.pending = e :: rest → e ≠ .assertReset)
    (h : step s = .next t) : Undisturbed (servingNext s) t := by
  obtain ⟨-, -, hdue, -⟩ | ⟨-, ⟨hnone, rfl⟩ | ⟨e, rest, hpending, heffect⟩⟩ := step_next_cases h
  · omega
  · have hserving : servingNext s = { s with delay := s.delay - 1 } := by simp [servingNext, hnone]
    rw [hserving]
    constructor <;> rfl
  · have hserving : servingNext s = { s with delay := s.delay - 1, pending := rest } := by
      simp [servingNext, hpending]
    rw [hserving]
    exact heffect.undisturbed (by simp [hbusy]) hheld (hevent e rest hpending)

/-- Settles O9: the host's event is served, and does not disturb the running command. -/
theorem operandsAreStableWhileBusy : Obligations.OperandsAreStableWhileBusy := by
  intro s t op hbusy hdelay hheld hevent h
  have hu := undisturbed_of_step hbusy hdelay hheld hevent h
  exact ⟨hu.resetHeld.trans hheld, hu.phase.trans hbusy, hu.params, hu.ctrl, hu.alen, hu.inLen, hu.alpha, hu.inp,
    hu.frozen, hu.out, hu.outLen, hu.err, hu.errinfo, hu.absent⟩

theorem run_succ_of_step {M : Host.Core} {s t : M.State} (h : M.step s = .next t) (k : Nat) :
    M.run (k + 1) s = M.run k t := by
  simp only [Host.Core.run, h]

/-- A last step after a run. -/
theorem run_succ_of_run {M : Host.Core} {k : Nat} {s u t : M.State} (hrun : M.run k s = .next u)
    (hstep : M.step u = .next t) : M.run (k + 1) s = .next t := by
  induction k generalizing s with
  | zero =>
    cases hrun
    rw [run_succ_of_step hstep, Host.Core.run]
  | succ k ih =>
    cases h : M.step s with
    | next s' =>
      rw [run_succ_of_step h] at hrun ⊢
      exact ih hrun
    | fault r => simp [Host.Core.run, h] at hrun
    | refused r => simp [Host.Core.run, h] at hrun

/-- The operands and the configuration of a running command after some host turns. -/
structure StillRunning (op : Instr) (s u : State) : Prop where
  phase : u.phase = .busy op
  resetHeld : u.resetHeld = false
  delay : u.delay = 0
  params : u.params = s.params
  ctrl : u.ctrl = s.ctrl
  alen : u.alen = s.alen
  inLen : u.inLen = s.inLen
  alpha : u.alpha = s.alpha
  inp : u.inp = s.inp
  frozen : u.frozen = s.frozen

/-- After `delay` steps the command is due, its operands untouched. -/
theorem run_delay_stillRunning {s : State} {op : Instr} (hbusy : s.phase = .busy op) (hheld : s.resetHeld = false)
    (hreset : HostEvent.assertReset ∉ s.pending) :
    ∃ u, Sys2Proof.core.run s.delay s = .next u ∧ StillRunning op s u := by
  induction hn : s.delay generalizing s with
  | zero => exact ⟨s, rfl, hbusy, hheld, hn, rfl, rfl, rfl, rfl, rfl, rfl, rfl⟩
  | succ n ih =>
    have hstep := step_eq_hostTurn (s := s) (.inr (.inl (by omega)))
    have hevent : ∀ e rest, s.pending = e :: rest → e ≠ .assertReset := by
      rintro e rest hpending rfl
      exact hreset (hpending ▸ List.mem_cons_self)
    have hu := undisturbed_of_step hbusy (by omega) hheld hevent hstep
    have htail : HostEvent.assertReset ∉ (hostTurn s).pending := by
      rw [hu.pending]
      exact fun hmem => hreset (List.mem_of_mem_tail hmem)
    have hdelay : (hostTurn s).delay = n := by
      rw [hu.delay]
      exact Nat.sub_eq_of_eq_add hn
    obtain ⟨u, hrun, hstill⟩ := ih (hu.phase.trans hbusy) (hu.resetHeld.trans hheld) htail hdelay
    exact ⟨u, (run_succ_of_step (M := Sys2Proof.core) hstep n).trans hrun, hstill.phase, hstill.resetHeld,
      hstill.delay, hstill.params.trans hu.params, hstill.ctrl.trans hu.ctrl, hstill.alen.trans hu.alen,
      hstill.inLen.trans hu.inLen, hstill.alpha.trans hu.alpha, hstill.inp.trans hu.inp,
      hstill.frozen.trans hu.frozen⟩

/-- While a command runs reset is released: asserted, it would have abandoned the command. -/
theorem resetHeld_of_busy {s : State} (hinv : State.Inv s) {op : Instr} (hbusy : s.phase = .busy op) :
    s.resetHeld = false := by
  obtain ⟨-, -, -, -, -, -, -, hreset⟩ := hinv
  by_contra hheld
  obtain ⟨-, -, -, -, -, -, -, -, -, -, hidle⟩ := hreset (Bool.eq_true_of_not_eq_false hheld)
  simp [hbusy] at hidle

/-- Settles O8: the host's turns count the delay down, and then the engine's step answers a next state. -/
theorem issuedCommandCompletesAfterItsDelay : Obligations.IssuedCommandCompletesAfterItsDelay := by
  intro s op hinv hbusy hreset
  have hheld := resetHeld_of_busy hinv hbusy
  obtain ⟨-, -, -, -, hfrozen, -⟩ := hinv
  obtain ⟨u, hrun, hstill⟩ := run_delay_stillRunning hbusy hheld hreset
  obtain ⟨t, hexec⟩ := exec_answers_next (i := op) (s := u) (hstill.frozen ▸ hfrozen)
  obtain ⟨hdone, hidle⟩ := exec_done_idle hexec
  have hlast : Sys2Proof.core.run (s.delay + 1) s = .next t :=
    run_succ_of_run (M := Sys2Proof.core) hrun ((step_eq_exec hstill.phase hstill.delay hstill.resetHeld).trans hexec)
  exact ⟨u, t, hrun, hstill.phase, hstill.delay, hstill.ctrl, hstill.alen, hstill.inLen, hstill.alpha, hstill.inp,
    hstill.frozen, hstill.params, hexec, hlast, hidle, hdone⟩

end Sys2Proof.Proofs
end

section
/-! Proofs about single fields over one step: what alters the frozen configuration, and what clears HERR and DONE
(20_memory.md R67, R75; 60_exceptions.md R248). -/

namespace Sys2Proof.Proofs

open Sys2Proof.Machine Sys2Proof.Claims

/-- Only CONFIG's issue alters the frozen configuration in an access. -/
theorem WriteEffect.frozen_changed {size : Nat} {off : Offset} {v : Word} {s t : State} (h : WriteEffect size off v s t)
    (hne : t.frozen ≠ s.frozen) : s.phase = .idle ∧ size = 4 ∧ off = 0x0C ∧ v = encode .config := by
  cases h with
  | issued hidle hsize hoff =>
    obtain ⟨-, hissue⟩ | ⟨op, hop, hissue⟩ := issue_cases v s
    · exact absurd (by rw [hissue, recordIllegal_frozen]) hne
    · by_cases hconfig : op = .config
      · exact ⟨hidle, hsize, hoff, (decodeWord_eq_ok_iff v .config).mp (hconfig ▸ hop)⟩
      · exact absurd (by rw [hissue, startCommand_frozen, frozenAtIssue_of_ne hconfig]) hne
  | ignored | error | status | ctrl | alen | inLen | alpha | inp => exact absurd rfl hne

/-- Settles O10: a command's completion is CONFIG's, and an event is CONFIG's issue or a reset. -/
theorem frozenConfigurationChangesOnlyByConfigOrReset : Obligations.FrozenConfigurationChangesOnlyByConfigOrReset := by
  intro s t h hne
  obtain ⟨op, hbusy, hdelay, hheld, hexec⟩ | ⟨-, ⟨-, rfl⟩ | ⟨e, rest, hpending, heffect⟩⟩ := step_next_cases h
  · obtain ⟨-, hkept, -⟩ := commandsWriteOnlyTheirResults op s t hexec
    have hop : op = .config := not_not.mp fun hop => hne (hkept hop)
    exact .inl ⟨hop ▸ hbusy, hdelay, hheld⟩
  · exact absurd rfl hne
  · cases heffect with
    | void | read | draw | badRead => exact absurd rfl hne
    | write hheld hwrite =>
      obtain ⟨hidle, rfl, rfl, rfl⟩ := hwrite.frozen_changed hne
      exact .inr (.inl ⟨hidle, hheld, rest, hpending⟩)
    | assertReset => exact .inr (.inr (.inl ⟨rest, hpending⟩))
    | releaseReset hheld => exact .inr (.inr (.inr ⟨hheld, rest, hpending⟩))

/-- Only a write of 1 to bit 4 of STATUS clears HERR in an access. -/
theorem WriteEffect.herr_cleared {size : Nat} {off : Offset} {v : Word} {s t : State} (h : WriteEffect size off v s t)
    (hset : s.herr = true) (hclear : t.herr = false) : size = 4 ∧ off = 0x10 ∧ v.getLsbD 4 = true := by
  cases h with
  | status hsize hoff => exact ⟨hsize, hoff, by simpa [hset] using hclear⟩
  | issued =>
    obtain ⟨-, hissue⟩ | ⟨op, -, hissue⟩ := issue_cases v s <;> simp [hissue, hset] at hclear
  | error => simp at hclear
  | ignored | ctrl | alen | inLen | alpha | inp => simp [hset] at hclear

/-- Settles O48: no command writes HERR, and of the events only these clear it. -/
theorem herrClearsOnlyByStatusWriteOrReset : Obligations.HerrClearsOnlyByStatusWriteOrReset := by
  intro s t h hset hclear
  obtain ⟨op, -, -, -, hexec⟩ | ⟨-, ⟨-, rfl⟩ | ⟨e, rest, hpending, heffect⟩⟩ := step_next_cases h
  · obtain ⟨⟨-, -, -, -, hherr, -⟩, -⟩ := commandsWriteOnlyTheirResults op s t hexec
    simp [hherr, hset] at hclear
  · simp [hset] at hclear
  · refine ⟨e, rest, hpending, ?_⟩
    cases heffect with
    | void | read | draw | badRead => simp [hset] at hclear
    | write hheld hwrite =>
      obtain ⟨rfl, rfl, hbit⟩ := hwrite.herr_cleared hset hclear
      exact .inr (.inr ⟨hheld, _, rfl, hbit⟩)
    | assertReset => exact .inl rfl
    | releaseReset hheld => exact .inr (.inl ⟨hheld, rfl⟩)

/-- Only a write of 1 to bit 1 of STATUS and the issue of a command clear DONE in an access. -/
theorem WriteEffect.done_cleared {size : Nat} {off : Offset} {v : Word} {s t : State} (h : WriteEffect size off v s t)
    (hset : s.done = true) (hclear : t.done = false) :
    (size = 4 ∧ off = 0x10 ∧ v.getLsbD 1 = true) ∨
    (s.phase = .idle ∧ size = 4 ∧ off = 0x0C ∧ ∃ i, v = encode i) := by
  cases h with
  | status hsize hoff => exact .inl ⟨hsize, hoff, by simpa [hset] using hclear⟩
  | issued hidle hsize hoff =>
    obtain ⟨-, hissue⟩ | ⟨op, hop, -⟩ := issue_cases v s
    · simp [hissue] at hclear
    · exact .inr ⟨hidle, hsize, hoff, op, (decodeWord_eq_ok_iff v op).mp hop⟩
  | ignored | error | ctrl | alen | inLen | alpha | inp => simp [hset] at hclear

/-- Settles O49: a completion sets DONE, and of the events only these clear it. -/
theorem doneFallsOnlyByStatusWriteIssueOrReset : Obligations.DoneFallsOnlyByStatusWriteIssueOrReset := by
  intro s t h hset hclear
  obtain ⟨op, -, -, -, hexec⟩ | ⟨-, ⟨-, rfl⟩ | ⟨e, rest, hpending, heffect⟩⟩ := step_next_cases h
  · simp [(exec_done_idle hexec).1] at hclear
  · simp [hset] at hclear
  · refine ⟨e, rest, hpending, ?_⟩
    cases heffect with
    | void | read | draw | badRead => simp [hset] at hclear
    | write hheld hwrite =>
      obtain ⟨rfl, rfl, hbit⟩ | ⟨hidle, rfl, rfl, i, rfl⟩ := hwrite.done_cleared hset hclear
      · exact .inr (.inr (.inl ⟨hheld, _, rfl, hbit⟩))
      · exact .inr (.inr (.inr ⟨hidle, hheld, i, rfl⟩))
    | assertReset => exact .inl rfl
    | releaseReset hheld => exact .inr (.inl ⟨hheld, rfl⟩)

end Sys2Proof.Proofs
end

section
/-! Proofs about the invariant: it holds after reset, every step keeps it, and its states never stop (10_state.md R44;
70_reset_and_hazards.md R260). -/

namespace Sys2Proof.Proofs

open Sys2Proof.Machine Sys2Proof.Claims

/-! ### RAMs -/

theorem ramOk_unspecified {g cap draws : Nat} (h : g < draws) : RamOk (Ram.unspecified g) cap draws :=
  ⟨List.Pairwise.nil, nofun, h⟩

/-- Taking a free value leaves a RAM of an older generation. -/
theorem ramOk_succ {r : Ram} {cap draws : Nat} (h : RamOk r cap draws) : RamOk r cap (draws + 1) := by
  obtain ⟨hwf, hbelow, hgen⟩ := h
  exact ⟨hwf, hbelow, Nat.lt_succ_of_lt hgen⟩

theorem ramOk_writeBytes {r : Ram} {cap draws : Nat} (h : RamOk r cap draws) {a : Nat} {vs : List Byte}
    (hfit : a + vs.length ≤ cap) : RamOk (r.writeBytes a vs) cap draws := by
  obtain ⟨hwf, hbelow, hgen⟩ := h
  exact ⟨Memory.wf_writeBytes hwf a vs, Memory.below_writeBytes hbelow hfit, hgen⟩

theorem ramOk_writeWord {r : Ram} {cap draws b : Nat} (h : RamOk r cap draws) (hfit : b + 4 ≤ cap) (v : Word) :
    RamOk (r.writeWord b v) cap draws :=
  ramOk_writeBytes h (by simpa using hfit)

/-! ### Reset -/

theorem atReset_hardReset (held : Bool) (s : State) : AtReset (hardReset held s) := by
  refine ⟨?_, ?_, ?_, ?_, ?_, ?_, ?_, ?_, ?_, ?_, ?_⟩ <;> rfl

theorem inv_hardReset {s : State} (h : State.Inv s) (held : Bool) : State.Inv (hardReset held s) := by
  obtain ⟨hp, -⟩ := h
  refine ⟨hp, ramOk_unspecified ?_, ramOk_unspecified ?_, ramOk_unspecified ?_, .inl rfl, ⟨nofun, nofun⟩, ?_,
    fun _ => atReset_hardReset held s⟩
  · simp
  · simp
  · simp
  · simp [ResultOk, noResult]

theorem capacityWf_of_index (i : Fin 16384) : capacityWf (4 * (i.val + 1)) = true := by
  have hlt := i.isLt
  simp only [capacityWf, Bool.and_eq_true, beq_iff_eq, decide_eq_true_eq]
  omega

theorem params_wf : Config.params.wf = true :=
  Bool.and_eq_true_iff.mpr ⟨capacityWf_of_index _, capacityWf_of_index _⟩

/-- Settles O58: every clause is read off the reset state. -/
theorem invariantHoldsAfterReset : Obligations.InvariantHoldsAfterReset := by
  have hreset : ∀ p : Params, p.wf = true → State.Inv (State.resetOf p) := fun p hp =>
    ⟨hp, ramOk_unspecified (show 0 < 3 by decide), ramOk_unspecified (show 1 < 3 by decide),
      ramOk_unspecified (show 2 < 3 by decide), .inl rfl, ⟨nofun, nofun⟩,
      by simp [ResultOk, State.resetOf, noResult], nofun⟩
  exact ⟨hreset _ params_wf, hreset⟩

/-! ### Host accesses -/

/-- IN holds whole words (00_scope.md R8). -/
theorem inCap_mod_four_of_wf {p : Params} (h : p.wf = true) : p.inCap % 4 = 0 := by
  simp only [Params.wf, capacityWf, Bool.and_eq_true, beq_iff_eq] at h
  obtain ⟨⟨hmod, -⟩, -⟩ := h
  exact hmod

theorem inv_issue {s : State} (h : State.Inv s) (hidle : s.phase = .idle) (hheld : s.resetHeld = false) (v : Word) :
    State.Inv (issue v s) := by
  obtain ⟨hp, halpha, hinp, hout, hfrozen, -, ⟨-, -, hlen⟩, -⟩ := h
  obtain ⟨-, hissue⟩ | ⟨op, -, hissue⟩ := issue_cases v s <;> rw [hissue]
  · exact ⟨hp, halpha, hinp, hout, hfrozen, ⟨by simp [busy, hidle], by simp [hidle]⟩, by simpa [ResultOk, noResult],
      by simp [hheld]⟩
  · have hop : FrozenOk (frozenAtIssue op s.frozen) := by
      by_cases hconfig : op = .config
      · exact .inl (hconfig ▸ rfl)
      · rwa [frozenAtIssue_of_ne hconfig]
    refine ⟨hp, ramOk_succ halpha, ramOk_succ hinp, ramOk_succ hout, hop,
      ⟨fun _ => ⟨rfl, rfl, rfl, rfl⟩, fun hconfig => ?_⟩, by simpa [ResultOk, noResult], by simp [hheld]⟩
    cases hconfig
    rfl

/-- With reset released a write keeps the invariant; the writes that change more than flags come in an idle block. -/
theorem WriteEffect.inv {size : Nat} {off : Offset} {v : Word} {s t : State} (h : WriteEffect size off v s t)
    (hinv : State.Inv s) (hheld : s.resetHeld = false) : State.Inv t := by
  have hreset : ∀ {u : State}, u.resetHeld = s.resetHeld → u.resetHeld = true → AtReset u := fun hu hu' => by
    simp [hu, hheld] at hu'
  obtain ⟨hp, halpha, hinp, hout, hfrozen, hbusy, hresult, -⟩ := id hinv
  cases h with
  | ignored => exact hinv
  | error => exact ⟨hp, halpha, hinp, hout, hfrozen, hbusy, hresult, hreset rfl⟩
  | status =>
    refine ⟨hp, halpha, hinp, hout, hfrozen, ⟨fun hb => ?_, hbusy.2⟩, hresult, hreset rfl⟩
    obtain ⟨hdone, herr, habsent, herrinfo⟩ := hbusy.1 hb
    exact ⟨by simp [hdone], herr, habsent, herrinfo⟩
  | issued hidle => exact inv_issue hinv hidle hheld v
  | ctrl | alen | inLen => exact ⟨hp, halpha, hinp, hout, hfrozen, hbusy, hresult, hreset rfl⟩
  | alpha _ halign hb =>
    exact ⟨hp, ramOk_writeWord halpha (by omega) v, hinp, hout, hfrozen, hbusy, hresult, hreset rfl⟩
  | @inp _ b halign hb =>
    have hcap := inCap_mod_four_of_wf hp
    exact ⟨hp, halpha, ramOk_writeWord hinp (by omega) v, hout, hfrozen, hbusy, hresult, hreset rfl⟩

theorem EventEffect.inv {e : HostEvent} {s t : State} (h : EventEffect s e t) (hinv : State.Inv s) : State.Inv t := by
  obtain ⟨hp, halpha, hinp, hout, hfrozen, hbusy, hresult, hreset⟩ := id hinv
  cases h with
  | void => exact hinv
  | read => exact hinv
  | draw hheld =>
    exact ⟨hp, ramOk_succ halpha, ramOk_succ hinp, ramOk_succ hout, hfrozen, hbusy, hresult, hreset⟩
  | badRead hheld => exact ⟨hp, halpha, hinp, hout, hfrozen, hbusy, hresult, by simp [hheld]⟩
  | write hheld hwrite => exact hwrite.inv hinv hheld
  | assertReset => exact inv_hardReset hinv true
  | releaseReset => exact inv_hardReset hinv false

/-! ### Completions -/

theorem busyOk_of_idle {t : State} (h : t.phase = .idle) : BusyOk t :=
  ⟨by simp [busy, h], by simp [h]⟩

theorem inv_commitConfig {s : State} (h : State.Inv s) (hheld : s.resetHeld = false) {f : Frozen}
    (hf : ConfiguredOk f) : State.Inv (commitConfig f s) := by
  obtain ⟨hp, halpha, hinp, hout, -, -, ⟨-, -, hlen⟩, -⟩ := h
  exact ⟨hp, halpha, hinp, hout, .inr hf, busyOk_of_idle rfl, by simpa [ResultOk, noResult], by simp [hheld]⟩

/-- CONFIG's errors keep the result of the command before it, which none of them excludes. -/
theorem inv_raiseError_config {s : State} (h : State.Inv s) (hheld : s.resetHeld = false) {e : Raise}
    (he : noResult e.code = false) : State.Inv (raiseError .config e s) := by
  obtain ⟨hp, halpha, hinp, hout, -, -, ⟨-, -, hlen⟩, -⟩ := h
  refine ⟨hp, halpha, hinp, hout, .inl rfl, busyOk_of_idle rfl, ?_, by simp [hheld]⟩
  rw [raiseError_config]
  simpa [ResultOk, he] using hlen

theorem inv_raiseError_data {i : Instr} (hi : i ≠ .config) {s : State} (h : State.Inv s) (hheld : s.resetHeld = false)
    (e : Raise) : State.Inv (raiseError i e s) := by
  obtain ⟨hp, halpha, hinp, -, hfrozen, -⟩ := h
  rw [raiseError_data hi]
  exact ⟨hp, ramOk_succ halpha, ramOk_succ hinp, ramOk_unspecified (Nat.lt_succ_self _), hfrozen,
    busyOk_of_idle rfl, by simp [ResultOk], by simp [hheld]⟩

theorem inv_reportAbsent {s : State} (h : State.Inv s) (hheld : s.resetHeld = false) (n : Nat) :
    State.Inv (reportAbsent n s) := by
  obtain ⟨hp, halpha, hinp, -, hfrozen, -⟩ := h
  exact ⟨hp, ramOk_succ halpha, ramOk_succ hinp, ramOk_unspecified (Nat.lt_succ_self _), hfrozen,
    busyOk_of_idle rfl, by simp [ResultOk], by simp [hheld]⟩

theorem inv_deliver {s : State} (h : State.Inv s) (hheld : s.resetHeld = false) {r : List Byte}
    (hfit : r.length ≤ s.params.outCap) : State.Inv (deliver r s) := by
  obtain ⟨hp, halpha, hinp, -, hfrozen, -⟩ := h
  have hout : RamOk ((Ram.unspecified s.draws).writeBytes 0 r) s.params.outCap (s.draws + 1) :=
    ramOk_writeBytes (ramOk_unspecified (Nat.lt_succ_self _)) (by simpa using hfit)
  have hlen : (BitVec.ofNat 32 r.length).toNat ≤ s.params.outCap := (toNat_length_of_fits hp hfit).trans_le hfit
  exact ⟨hp, ramOk_succ halpha, ramOk_succ hinp, hout, hfrozen, busyOk_of_idle rfl,
    ⟨nofun, by simp [noResult], hlen⟩, by simp [hheld]⟩

theorem inv_of_exec {i : Instr} {s t : State} (hinv : State.Inv s) (hheld : s.resetHeld = false)
    (h : exec i s = .next t) : State.Inv t := by
  obtain ⟨-, ⟨f, hf, rfl⟩ | ⟨e, he, rfl⟩⟩ | ⟨hi, hend⟩ := exec_next_cases h
  · obtain ⟨hvalid, rfl⟩ := construct_eq_ok (Ram.take_length _ _) hf
    exact inv_commitConfig hinv hheld (configuredOk_frozenFrom hvalid)
  · exact inv_raiseError_config hinv hheld (noResult_of_construct_error he)
  · obtain ⟨e, rfl, -⟩ | ⟨n, rfl⟩ | ⟨r, hfit, rfl⟩ := hend.shape
    · exact inv_raiseError_data hi hinv hheld e
    · exact inv_reportAbsent hinv hheld n
    · exact inv_deliver hinv hheld hfit

/-- Settles O59: a completion keeps the invariant, and so does each event. -/
theorem everyStepKeepsTheInvariant : Obligations.EveryStepKeepsTheInvariant := by
  intro s t hinv h
  obtain ⟨op, -, -, hheld, hexec⟩ | ⟨-, ⟨-, rfl⟩ | ⟨e, rest, -, heffect⟩⟩ := step_next_cases h
  · exact inv_of_exec hinv hheld hexec
  · exact hinv
  · exact heffect.inv hinv

/-- Settles O60: the host's turns never stop, and the invariant's configuration lets every command complete. -/
theorem invariantStatesNeverStop : Obligations.InvariantStatesNeverStop := by
  rintro s ⟨-, -, -, -, hfrozen, -⟩
  obtain ⟨op, -, -, -, hstep⟩ | ⟨-, hstep⟩ := step_cases s
  · obtain ⟨t, ht⟩ := exec_answers_next (i := op) hfrozen
    exact ⟨t, hstep.trans ht⟩
  · exact ⟨_, hstep⟩

end Sys2Proof.Proofs
end

section
/-! Proofs about reset: what its assertion and its release leave, and that the state keeps it while reset is asserted
(70_reset_and_hazards.md R260 to R262). -/

namespace Sys2Proof.Proofs

open Sys2Proof.Machine Sys2Proof.Claims

@[simp] theorem mode_frozenReset : Frozen.reset.mode = .none := rfl

/-- Settles O57: the step serves the assertion, which sets every field. -/
theorem resetAbandonsTheRunningCommand : Obligations.ResetAbandonsTheRunningCommand := by
  intro s rest hturn hpending
  have hstep : step s = .next (hardReset true { s with delay := s.delay - 1, pending := rest }) := by
    rw [step_eq_hostTurn hturn, hostTurn, hpending]
    rfl
  refine ⟨_, hstep, ?_⟩
  simp

theorem statusWord_of_atReset {s : State} (h : AtReset s) : statusWord s = 0 := by
  obtain ⟨-, -, -, -, hdone, habsent, hherr, herr, -, hmode, hidle⟩ := h
  simp [statusWord, kField, configured, busy, errCode, modeCode, hdone, habsent, hherr, herr, hmode, hidle]

theorem irq_of_atReset {s : State} (h : AtReset s) : irq s = false := by
  obtain ⟨-, -, -, -, hdone, -⟩ := h
  simp [irq, hdone]

/-- The assertion of reset, and its release from the asserted level, reset the block. -/
theorem hostEvent_reset {s : State} {e : HostEvent}
    (h : e = .assertReset ∨ (e = .releaseReset ∧ s.resetHeld = true)) :
    hostEvent e s = hardReset (decide (e = .assertReset)) s := by
  obtain rfl | ⟨rfl, hheld⟩ := h
  · rfl
  · exact if_pos hheld

/-- While reset is asserted no event changes what reset left, but for the level of the input at its release. -/
theorem EventEffect.atReset {e : HostEvent} {s t : State} (h : EventEffect s e t) (hheld : s.resetHeld = true)
    (hreset : AtReset s) : AtReset t ∧ t.params = s.params ∧ (t.resetHeld = false → e = .releaseReset) := by
  cases h with
  | void => exact ⟨hreset, rfl, by simp [hheld]⟩
  | read => exact ⟨hreset, rfl, by simp [hheld]⟩
  | draw hreleased | badRead hreleased | write hreleased => simp [hheld] at hreleased
  | assertReset => exact ⟨atReset_hardReset true s, rfl, nofun⟩
  | releaseReset => exact ⟨atReset_hardReset false s, rfl, fun _ => rfl⟩

theorem step_atReset {s t : State} (hheld : s.resetHeld = true) (hreset : AtReset s) (h : step s = .next t) :
    AtReset t ∧ t.params = s.params ∧ (t.resetHeld = false → ∃ rest, s.pending = .releaseReset :: rest) := by
  obtain ⟨op, -, -, hreleased, -⟩ | ⟨-, ⟨-, rfl⟩ | ⟨e, rest, hpending, heffect⟩⟩ := step_next_cases h
  · simp [hheld] at hreleased
  · exact ⟨hreset, rfl, by simp [hheld]⟩
  · obtain ⟨hreset', hparams, hrelease⟩ := heffect.atReset hheld hreset
    exact ⟨hreset', hparams, fun hreleased => ⟨rest, hrelease hreleased ▸ hpending⟩⟩

theorem atReset_resetOf (p : Params) : AtReset (State.resetOf p) := by
  refine ⟨?_, ?_, ?_, ?_, ?_, ?_, ?_, ?_, ?_, ?_, ?_⟩ <;> rfl

/-- Settles O56: power-on, the assertion and the release set the same values, and an asserted reset keeps them. -/
theorem resetLeavesAQuietUnconfiguredBlock : Obligations.ResetLeavesAQuietUnconfiguredBlock := by
  refine ⟨rfl, params_wf, fun s e he => ?_, fun s hheld => ?_, fun s t hheld hreset h => step_atReset hheld hreset h,
    fun p => ?_⟩
  · rw [hostEvent_reset he]
    have hreset := atReset_hardReset (decide (e = .assertReset)) s
    exact ⟨hreset, by simp, statusWord_of_atReset hreset, irq_of_atReset hreset, rfl, rfl, rfl,
      fun a => ⟨⟨_, rfl⟩, ⟨_, rfl⟩, ⟨_, rfl⟩⟩⟩
  · obtain ⟨hread, hwrite, -⟩ := hostEvent_held hheld
    exact ⟨hwrite, hread⟩
  · have hreset := atReset_resetOf p
    exact ⟨hreset, rfl, rfl, rfl, rfl, rfl, rfl, rfl, rfl, statusWord_of_atReset hreset, rfl, rfl, rfl, rfl, rfl, rfl,
      rfl, fun a => ⟨⟨_, rfl⟩, ⟨_, rfl⟩, ⟨_, rfl⟩⟩⟩

end Sys2Proof.Proofs
end

section
/-! Proofs about the registers: what a write and a read of each does (10_state.md section 2; 45_commands.md R200,
R209). -/

namespace Sys2Proof.Proofs

open Sys2Proof.Machine Sys2Proof.Claims

theorem hostWrite_reg (r : HostReg) (v : Word) (s : State) :
    hostWrite 4 (regOffset r) v s = writeTarget (.reg r) v s := by
  rw [hostWrite, target_regOffset]

/-- A read of a register that is no draw now returns its stored value. -/
theorem hostRead_reg {r : HostReg} {s : State} (h : readIsDraw s (.reg r) = false) :
    hostRead 4 (regOffset r) s = { s with replies := s.replies ++ [regValue s r] } := by
  rw [hostRead, target_regOffset, readTarget_exact h nofun]
  rfl

theorem hostRead_reg_idle {s : State} (h : s.phase = .idle) (r : HostReg) :
    hostRead 4 (regOffset r) s = { s with replies := s.replies ++ [regValue s r] } :=
  hostRead_reg (readIsDraw_idle h _)

/-! ### CMD -/

theorem hostWrite_cmd (v : Word) (s : State) : hostWrite 4 0x0C v s = unlessBusy (issue v) s :=
  hostWrite_reg .cmd v s

theorem issue_encode (i : Instr) (s : State) :
    issue (encode i) s = { startCommand i (Config.completionDelay s.draws) s with draws := s.draws + 1 } := by
  have hok : decodeWord (encode i) = .ok i := (decodeWord_eq_ok_iff _ i).mpr rfl
  rw [issue, hok]

theorem issue_of_ne_encode {v : Word} (h : ∀ i, v ≠ encode i) (s : State) : issue v s = recordIllegal s := by
  obtain ⟨-, hissue⟩ | ⟨op, hok, -⟩ := issue_cases v s
  · exact hissue
  · exact absurd ((decodeWord_eq_ok_iff v op).mp hok) (h op)

/-- Settles O4: an accepted write issues what the decoder accepts and records the rest. -/
theorem cmdWriteIssuesRecordsOrIsDropped : Obligations.CmdWriteIssuesRecordsOrIsDropped := by
  intro s v
  rw [hostWrite_cmd]
  refine ⟨fun hidle => ?_, fun hbusy => unlessBusy_busy hbusy _⟩
  rw [unlessBusy_idle hidle]
  refine ⟨fun i hi => ⟨Config.completionDelay s.draws, ?_⟩, fun hillegal => issue_of_ne_encode hillegal s⟩
  rw [hi, issue_encode]
  cases i <;> rfl

/-! ### CTRL, ALEN and IN_LEN -/

theorem ctrlWord_ctrlOfWord (v : Word) : ctrlWord (ctrlOfWord v) = v &&& 3 := by
  have hmask : ∀ j < 32, (3 : Word).getLsbD j = decide (j < 2) := by decide
  refine BitVec.eq_of_getLsbD_eq fun j hj => ?_
  simp only [ctrlWord, ctrlOfWord, BitVec.getLsbD_append, BitVec.getLsbD_and, hmask j hj]
  obtain rfl | rfl | hge : j = 0 ∨ j = 1 ∨ 2 ≤ j := by omega
  · simp
  · simp
  · simp [show ¬ j < 1 by omega, show ¬ j - 1 < 1 by omega, show ¬ j < 2 by omega]

theorem hostWrite_ctrl_idle {s : State} (h : s.phase = .idle) (v : Word) :
    hostWrite 4 0x04 v s = { s with ctrl := ctrlOfWord v } := by
  rw [show (0x04 : Offset) = regOffset .ctrl from rfl, hostWrite_reg, writeTarget_ctrl, unlessBusy_idle h]

theorem hostWrite_alen_idle {s : State} (h : s.phase = .idle) (v : Word) :
    hostWrite 4 0x08 v s = { s with alen := v } := by
  rw [show (0x08 : Offset) = regOffset .alen from rfl, hostWrite_reg, writeTarget_alen, unlessBusy_idle h]

theorem hostWrite_inLen_idle {s : State} (h : s.phase = .idle) (v : Word) :
    hostWrite 4 0x14 v s = { s with inLen := v } := by
  rw [show (0x14 : Offset) = regOffset .inLen from rfl, hostWrite_reg, writeTarget_inLen, unlessBusy_idle h]

/-- Settles O51: each write stores the word, and the read returns what is stored. -/
theorem idleRegisterWritesReadBack : Obligations.IdleRegisterWritesReadBack := by
  intro s v hidle
  rw [hostWrite_ctrl_idle hidle, hostWrite_alen_idle hidle, hostWrite_inLen_idle hidle]
  refine ⟨rfl, ?_, rfl, hostRead_reg_idle (s := { s with alen := v }) hidle .alen, rfl,
    hostRead_reg_idle (s := { s with inLen := v }) hidle .inLen⟩
  rw [← ctrlWord_ctrlOfWord]
  exact hostRead_reg_idle (s := { s with ctrl := ctrlOfWord v }) hidle .ctrl

/-! ### The read-only registers and STATUS -/

theorem errinfoWord_fields (e : ErrInfo) :
    (errinfoWord e).extractLsb' 0 16 = e.pos ∧ (errinfoWord e).extractLsb' 16 8 = e.base ∧
    (errinfoWord e).extractLsb' 24 8 = 0 := by
  refine ⟨?_, ?_, ?_⟩ <;> refine BitVec.eq_of_getLsbD_eq fun j hj => ?_
  all_goals simp only [errinfoWord, BitVec.getLsbD_extractLsb', BitVec.getLsbD_append]
  · simp [hj]
  · simp [hj]
  · simp [show ¬ 24 + j < 16 by omega, show ¬ 24 + j - 16 < 8 by omega]

theorem leaderWord_unconfigured {s : State} (h : s.frozen.mode = .none) : leaderWord s = 0 ∧ nbaseWord s = 0 := by
  simp [leaderWord, nbaseWord, configured, h]

theorem leaderWord_configured {s : State} (h : ConfiguredOk s.frozen) :
    leaderWord s = s.frozen.fleader.setWidth 32 ∧ nbaseWord s = BitVec.ofNat 32 s.frozen.fn := by
  have hconf : configured s = true := by simpa [configured] using h.1
  obtain ⟨-, hle⟩ := fn_range_of_configured h
  rw [leaderWord, nbaseWord, if_pos hconf, if_pos hconf]
  refine ⟨rfl, BitVec.eq_of_toNat_eq ?_⟩
  simp only [BitVec.toNat_setWidth, BitVec.toNat_ofNat]
  omega

/-- Settles O52: no write reaches these registers, and an idle read returns what they compute. -/
theorem readOnlyRegistersShowTheirState : Obligations.ReadOnlyRegistersShowTheirState := by
  refine ⟨?_, fun s hidle => ?_⟩
  · rintro s v off (rfl | rfl | rfl | rfl | rfl | rfl | rfl) <;> rfl
  · have hread := hostRead_reg_idle hidle
    refine ⟨hread .id, hread .cmd, hread .outLen, ⟨_, hread .errinfo, errinfoWord_fields _⟩, fun hnone => ?_,
      fun hconf => ?_, hread .incap, hread .outcap⟩
    · obtain ⟨hleader, hnbase⟩ := leaderWord_unconfigured hnone
      exact ⟨hleader ▸ hread .leader, hnbase ▸ hread .nbase⟩
    · obtain ⟨hleader, hnbase⟩ := leaderWord_configured hconf
      exact ⟨hleader ▸ hread .leader, hnbase ▸ hread .nbase⟩

/-- Three bits hold FK (10_state.md R40). -/
theorem fk_le_seven {f : Frozen} (hf : ConfiguredOk f) : f.fk ≤ 7 := by
  have hmodes := mode_cases hf
  obtain ⟨-, -, -, -, -, -, -, -, hgeneric, hpow, -⟩ := hf
  obtain hmode | ⟨hmode, -⟩ | hmode := hmodes
  · simp [(hgeneric hmode).1]
  · exact (hpow (.inl hmode)).2.2
  · exact (hpow (.inr hmode)).2.2

theorem kField_toNat {s : State} (h : ConfiguredOk s.frozen) : (kField s).toNat = s.frozen.fk := by
  have hconf : configured s = true := by simpa [configured] using h.1
  have hle := fk_le_seven h
  rw [kField, if_pos hconf, BitVec.toNat_ofNat]
  omega

theorem hostRead_status (s : State) :
    hostRead 4 0x10 s = { s with replies := s.replies ++ [statusWord s] } :=
  hostRead_reg (r := .status) (readIsDraw_status s)

theorem hostWrite_status (v : Word) (s : State) : hostWrite 4 0x10 v s = writeStatus v s :=
  hostWrite_reg .status v s

/-- Settles O53: STATUS is never a draw, and each of its fields is the state's. -/
theorem statusReadsAndClearsByField : Obligations.StatusReadsAndClearsByField := by
  intro s
  obtain ⟨hbusy, hdone, hconf, habsent, hherr, h5, herr, h12, hmode, h18, hk, h23⟩ := statusWord_fields s
  refine ⟨⟨_, hostRead_status s, ?_, hdone, ?_, habsent, hherr, h5, h12, h18, h23, ?_, ?_, fun hnone => ?_,
    fun hf => ?_⟩, fun v => hostWrite_status v s⟩
  · rw [hbusy, busy_iff]
  · rw [hconf]
    simp [configured]
  · rw [herr]
    cases s.err <;> rfl
  · rw [hmode]
    cases s.frozen.mode <;> rfl
  · rw [hk, kField]
    simp [configured, hnone]
  · rw [hk, kField_toNat hf]

/-! ### irq -/

/-- Settles O55: irq is IE and DONE, so it follows what the access or the completion makes of them. -/
theorem irqFollowsDoneAndEnable : Obligations.IrqFollowsDoneAndEnable := by
  refine ⟨fun i s t h => ?_, fun s v hbit => ?_, fun s v hidle hbit => ?_, fun s i hidle => ?_,
    fun s v hidle hdone hbit => ?_, fun s v hidle hillegal => ?_, fun s hdone => ?_, fun s size off => ?_⟩
  · obtain ⟨⟨-, hctrl, -⟩, -⟩ := commandsWriteOnlyTheirResults i s t h
    simp [irq, hctrl, (exec_done_idle h).1]
  · rw [hostWrite_status]
    simp [irq, hbit]
  · rw [hostWrite_ctrl_idle hidle]
    simp only [irq, ctrlOfWord, hbit, Bool.false_and]
  · rw [hostWrite_cmd, unlessBusy_idle hidle, issue_encode]
    simp [irq]
  · rw [hostWrite_ctrl_idle hidle]
    simp only [irq, ctrlOfWord, hbit, hdone, Bool.and_self]
  · rw [hostWrite_cmd, unlessBusy_idle hidle, issue_of_ne_encode hillegal]
    simp [irq]
  · simp [irq, hdone]
  · rw [hostRead]
    obtain ⟨-, heq⟩ | ⟨-, heq⟩ | ⟨-, -, heq⟩ := readTarget_cases (target s.params size off) s <;> rw [heq] <;> rfl

end Sys2Proof.Proofs
end

section
/-! Proofs about the RAM windows: a word is four bytes, the lowest address in the low bits (20_memory.md R64 to R66). -/

namespace Sys2Proof.Proofs

open Sys2Proof.Machine Sys2Proof.Claims

theorem packBytes_toNat (b0 b1 b2 b3 : Byte) :
    (packBytes b0 b1 b2 b3).toNat = b0.toNat + 2 ^ 8 * b1.toNat + 2 ^ 16 * b2.toNat + 2 ^ 24 * b3.toNat := by
  simp only [packBytes, BitVec.toNat_append, shiftIn_eq b2.isLt, shiftIn_eq b1.isLt, shiftIn_eq b0.isLt]
  omega

/-- A written word fills exactly its four bytes. -/
theorem writeWord_bytes (r : Ram) (b : Nat) (v : Word) :
    (∀ j < 4, (r.writeWord b v).read (b + j) = v.extractLsb' (8 * j) 8) ∧
    ∀ a, a < b ∨ b + 4 ≤ a → (r.writeWord b v).read a = r.read a := by
  constructor
  · intro j hj
    rw [Ram.read_writeWord, if_pos (by omega), Nat.add_sub_cancel_left]
    rfl
  · intro a ha
    rw [Ram.read_writeWord, if_neg (by omega)]

/-- A read in an idle block returns the stored value of what it reaches. -/
theorem hostRead_idle {s : State} (hidle : s.phase = .idle) {off : Offset} {t : Target}
    (htarget : target s.params 4 off = t) (ht : t ≠ .unmapped) : hostRead 4 off s = reply (targetValue s t) s := by
  rw [hostRead, htarget, readTarget_exact (readIsDraw_idle hidle t) ht]

theorem hostRead_alpha_idle {s : State} (hidle : s.phase = .idle) {off : Offset} (hoff : InAlpha off) :
    hostRead 4 off s = reply (s.alpha.readWord (off.toNat - 0x100)) s := by
  obtain ⟨halign, hlow, hhigh⟩ := hoff
  exact hostRead_idle hidle (target_alpha halign hlow hhigh) nofun

theorem hostRead_inp_idle {s : State} (hidle : s.phase = .idle) {off : Offset} (hoff : InIn s.params off) :
    hostRead 4 off s = reply (s.inp.readWord (off.toNat - 0x10000)) s := by
  obtain ⟨halign, hlow, hhigh⟩ := hoff
  exact hostRead_idle hidle (target_inp halign hlow hhigh) nofun

theorem hostRead_out_idle {s : State} (hidle : s.phase = .idle) (hp : s.params.wf = true) {off : Offset}
    (hoff : InOut s.params off) : hostRead 4 off s = reply (s.out.readWord (off.toNat - 0x20000)) s := by
  obtain ⟨halign, hlow, hhigh⟩ := hoff
  exact hostRead_idle hidle (target_out (inCap_le_of_wf hp) halign hlow hhigh) nofun

theorem hostWrite_alpha_idle {s : State} (hidle : s.phase = .idle) {off : Offset} (hoff : InAlpha off) (v : Word) :
    hostWrite 4 off v s = { s with alpha := s.alpha.writeWord (off.toNat - 0x100) v } := by
  obtain ⟨halign, hlow, hhigh⟩ := hoff
  rw [hostWrite, target_alpha halign hlow hhigh, writeTarget_alpha, unlessBusy_idle hidle]

theorem hostWrite_inp_idle {s : State} (hidle : s.phase = .idle) {off : Offset} (hoff : InIn s.params off) (v : Word) :
    hostWrite 4 off v s = { s with inp := s.inp.writeWord (off.toNat - 0x10000) v } := by
  obtain ⟨halign, hlow, hhigh⟩ := hoff
  rw [hostWrite, target_inp halign hlow hhigh, writeTarget_inp, unlessBusy_idle hidle]

/-- Settles O50: in an idle block an access to a RAM window reads or writes the word of that RAM. -/
theorem ramWordsAreLittleEndian : Obligations.RamWordsAreLittleEndian := by
  refine ⟨fun s off v hidle hoff => ?_, fun s off v hidle _ hoff => ?_,
    fun s off hidle hp => ⟨hostRead_alpha_idle hidle, hostRead_inp_idle hidle, hostRead_out_idle hidle hp⟩,
    fun r b => packBytes_toNat _ _ _ _⟩
  · obtain ⟨hbytes, hothers⟩ := writeWord_bytes s.alpha (off.toNat - 0x100) v
    refine ⟨_, hostWrite_alpha_idle hidle hoff v, rfl, hbytes, hothers, ?_⟩
    have hread := hostRead_alpha_idle (s := { s with alpha := s.alpha.writeWord (off.toNat - 0x100) v }) hidle hoff
    rw [hread, Ram.readWord_writeWord, reply]
  · obtain ⟨hbytes, hothers⟩ := writeWord_bytes s.inp (off.toNat - 0x10000) v
    refine ⟨_, hostWrite_inp_idle hidle hoff v, rfl, hbytes, hothers, ?_⟩
    have hread := hostRead_inp_idle (s := { s with inp := s.inp.writeWord (off.toNat - 0x10000) v }) hidle hoff
    rw [hread, Ram.readWord_writeWord, reply]

/-! ### System addresses -/

/-- Settles O45: within the window the offset is the distance from the base. -/
theorem windowIsAlignedAndAddressable : Obligations.WindowIsAlignedAndAddressable := by
  refine ⟨Nat.mul_mod_right _ _, fun off => ?_, fun a off h => ?_⟩
  · have hlt := off.isLt
    rw [windowOffset, systemAddress, if_pos (by omega), Nat.add_sub_cancel_left, BitVec.ofNat_toNat,
      BitVec.setWidth_eq]
  · rw [windowOffset] at h
    split at h
    next hin =>
      obtain rfl := Option.some.inj h
      rw [systemAddress, BitVec.toNat_ofNat, Nat.mod_eq_of_lt (by omega)]
      omega
    · cases h

/-! ### The encoding -/

/-- Settles O1: each word is the encoding of its command. -/
theorem commandWordsDecodeAsListed : Obligations.CommandWordsDecodeAsListed := by
  have hdecode : ∀ i, decodeWord (encode i) = .ok i := fun i => (decodeWord_eq_ok_iff _ i).mpr rfl
  exact ⟨hdecode .config, hdecode .encode, hdecode .decode, hdecode .decodeUnsafe, hdecode .encode, rfl, rfl, rfl, rfl⟩

/-- Settles O2: the decoder accepts the encoder's words, and the layouts in bytes and in the table are the word's. -/
theorem encodedCommandDecodesBack : Obligations.EncodedCommandDecodesBack := by
  intro i _
  have hdecode : decodeWord (encode i) = .ok i := (decodeWord_eq_ok_iff _ i).mpr rfl
  have htable : tableWord 32 (encode i).toNat = encode i := by
    rw [tableWord, Nat.mod_eq_of_lt (encode i).isLt, BitVec.ofNat_toNat, BitVec.setWidth_eq]
  refine ⟨by cases i <;> decide, hdecode, (decodeBytes_byteOfWord _).trans hdecode, ?_⟩
  rw [decodeTableWord_eq_some_iff, htable, hdecode]

end Sys2Proof.Proofs
end

section
/-! Proofs about host accesses while a command runs: which are dropped, which are draws, and that the others are as when
idle (20_memory.md R68). -/

namespace Sys2Proof.Proofs

open Sys2Proof.Machine Sys2Proof.Claims

/-- The registers whose writes a running command drops. -/
def regIsDropped : HostReg → Bool
  | .ctrl => true
  | .alen => true
  | .cmd => true
  | .inLen => true
  | .id => false
  | .status => false
  | .outLen => false
  | .errinfo => false
  | .leader => false
  | .nbase => false
  | .incap => false
  | .outcap => false

/-- The targets whose writes a running command drops. -/
def isDropped : Target → Bool
  | .reg r => regIsDropped r
  | .alpha _ => true
  | .inp _ => true
  | .out _ => false
  | .reserved => false
  | .unmapped => false

theorem droppedWhileBusy_iff (p : Params) (size : Nat) (off : Offset) :
    DroppedWhileBusy p size off ↔ isDropped (target p size off) = true := by
  constructor
  · rintro ⟨rfl, rfl | rfl | rfl | rfl | ⟨halign, hlow, hhigh⟩ | ⟨halign, hlow, hhigh⟩⟩
    · rfl
    · rfl
    · rfl
    · rfl
    · rw [target_alpha halign hlow hhigh, isDropped]
    · rw [target_inp halign hlow hhigh, isDropped]
  · have hreaches := reaches_target p size off
    cases htarget : target p size off with
    | reg r =>
      rw [htarget] at hreaches
      obtain ⟨hsize, rfl⟩ := hreaches
      cases r <;> simp [isDropped, regIsDropped, DroppedWhileBusy, hsize, regOffset]
    | alpha b =>
      rw [htarget] at hreaches
      obtain ⟨hsize, halpha, -⟩ := hreaches
      exact fun _ => ⟨hsize, .inr (.inr (.inr (.inr (.inl halpha))))⟩
    | inp b =>
      rw [htarget] at hreaches
      obtain ⟨hsize, hinp, -⟩ := hreaches
      exact fun _ => ⟨hsize, .inr (.inr (.inr (.inr (.inr hinp))))⟩
    | out b | reserved | unmapped => exact nofun

theorem writeTarget_of_isDropped {t : Target} (ht : isDropped t = true) {s : State} (hbusy : s.phase ≠ .idle)
    (v : Word) : writeTarget t v s = setHerr s := by
  cases t with
  | reg r =>
    cases r with
    | ctrl | alen | cmd | inLen => simp [unlessBusy_busy hbusy]
    | id | status | outLen | errinfo | leader | nbase | incap | outcap => cases ht
  | alpha b | inp b => simp [unlessBusy_busy hbusy]
  | out b | reserved | unmapped => cases ht

/-- A write that is not dropped does not look at the phase. -/
theorem writeTarget_of_not_isDropped {t : Target} (ht : isDropped t = false) (p : Phase) (v : Word) (s : State) :
    writeTarget t v { s with phase := p } = { writeTarget t v s with phase := p } := by
  cases t with
  | reg r =>
    cases r with
    | ctrl | alen | cmd | inLen => cases ht
    | id | status | outLen | errinfo | leader | nbase | incap | outcap => rfl
  | alpha b | inp b => cases ht
  | out b | reserved | unmapped => rfl

theorem drawnWhileBusy_iff {s : State} {op : Instr} (hp : s.params.wf = true) (hbusy : s.phase = .busy op) (size : Nat)
    (off : Offset) : DrawnWhileBusy s.params op size off ↔ readIsDraw s (target s.params size off) = true := by
  constructor
  · rintro ⟨rfl, rfl | rfl | ⟨halign, hlow, hhigh⟩ | ⟨rfl, rfl | rfl⟩⟩
    · simp [readIsDraw, hbusy, regIsDraw]
    · simp [readIsDraw, hbusy, regIsDraw]
    · simp [readIsDraw, hbusy, target_out (inCap_le_of_wf hp) halign hlow hhigh]
    · simp [readIsDraw, hbusy, regIsDraw]
    · simp [readIsDraw, hbusy, regIsDraw]
  · have hreaches := reaches_target s.params size off
    cases htarget : target s.params size off with
    | reg r =>
      rw [htarget] at hreaches
      obtain ⟨hsize, rfl⟩ := hreaches
      cases r <;> simp +contextual [readIsDraw, hbusy, regIsDraw, DrawnWhileBusy, hsize, regOffset]
    | out b =>
      rw [htarget] at hreaches
      obtain ⟨hsize, hout, -⟩ := hreaches
      exact fun _ => ⟨hsize, .inr (.inr (.inl hout))⟩
    | alpha b | inp b | reserved | unmapped => simp [readIsDraw, hbusy]

/-- Of the stored values STATUS alone shows the phase. -/
theorem targetValue_of_ne_status {t : Target} (ht : t ≠ .reg .status) (p : Phase) (s : State) :
    targetValue { s with phase := p } t = targetValue s t := by
  cases t with
  | reg r =>
    cases r with
    | status => exact absurd rfl ht
    | id | ctrl | alen | cmd | inLen | outLen | errinfo | leader | nbase | incap | outcap => rfl
  | alpha b | inp b | out b | reserved | unmapped => rfl

/-- A read that is neither a draw nor of STATUS does not look at the phase. -/
theorem readTarget_of_not_draw {t : Target} {s : State} {p : Phase} (hdraw : readIsDraw s t = false)
    (hdraw' : readIsDraw { s with phase := p } t = false) (ht : t ≠ .reg .status) :
    readTarget t { s with phase := p } = { readTarget t s with phase := p } := by
  by_cases hu : t = .unmapped
  · rw [hu, readTarget_unmapped, readTarget_unmapped]
    rfl
  · rw [readTarget_exact hdraw hu, readTarget_exact hdraw' hu, targetValue_of_ne_status ht]
    rfl

theorem setPhase_self {s : State} {p : Phase} (h : s.phase = p) : { s with phase := p } = s := by
  rw [← h]

/-- Settles O54: the phase matters to an access only by what is dropped, what is drawn, and STATUS. -/
theorem busyAccessesAreDroppedDrawnOrExact : Obligations.BusyAccessesAreDroppedDrawnOrExact := by
  intro s op hinv hbusy
  obtain ⟨hp, -, -, -, -, ⟨hflags, hconfig⟩, -⟩ := hinv
  have hnotIdle : s.phase ≠ .idle := by simp [hbusy]
  obtain ⟨hdone, herr, habsent, herrinfo⟩ := hflags ((busy_iff s).mpr hnotIdle)
  refine ⟨fun size off v hdropped => ?_, fun size off v hkept => ?_, fun size off hdrawn => ?_,
    fun size off hexact hstatus => ?_, ?_⟩
  · exact writeTarget_of_isDropped ((droppedWhileBusy_iff _ _ _).mp hdropped) hnotIdle v
  · have hkept : isDropped (target s.params size off) = false := by simpa [droppedWhileBusy_iff] using hkept
    have hphase := writeTarget_of_not_isDropped hkept (.busy op) v { s with phase := .idle }
    rw [hostWrite, hostWrite, ← hphase]
    exact congrArg _ (setPhase_self hbusy).symm
  · rw [hostRead, readTarget, if_pos ((drawnWhileBusy_iff hp hbusy _ _).mp hdrawn)]
    rfl
  · have hdraw : readIsDraw s (target s.params size off) = false := by
      simpa [drawnWhileBusy_iff hp hbusy] using hexact
    have ht : target s.params size off ≠ .reg .status := fun ht => by
      have hreaches := reaches_target s.params size off
      rw [ht] at hreaches
      exact hstatus hreaches
    rw [hostRead, hostRead, readTarget_of_not_draw hdraw (readIsDraw_idle rfl _) ht]
    exact (setPhase_self (by
      obtain ⟨-, heq⟩ | ⟨-, heq⟩ | ⟨-, -, heq⟩ := readTarget_cases (target s.params size off) s <;>
        rw [heq] <;> exact hbusy)).symm
  · obtain ⟨hb, hd, hc, ha, -, -, he, -, hm, -, hk, -⟩ := statusWord_fields s
    refine ⟨_, hostRead_status s, hb.trans ((busy_iff s).mpr hnotIdle), hd.trans hdone, ha.trans habsent, ?_,
      herrinfo, fun hop => ?_, fun _ => ⟨hc, hm, hk⟩⟩
    · rw [he, herr]
      rfl
    · have hnone := hconfig (hop ▸ hbusy)
      refine ⟨hc.trans ?_, hm.trans ?_, hk.trans ?_⟩ <;> simp [configured, kField, modeCode, hnone]

end Sys2Proof.Proofs
end
